-- ==== Sys2Proof/Word.lean ====
section
/-!
DEFINITION. Words, bytes, register numbers and the fixed sizes of the hardware (spec/00_scope.md R6, R10).
-/

namespace Sys2Proof

/-- A byte: 8 bits, bit 7 the most significant (R10). -/
abbrev Byte := BitVec 8

/-- A word: 16 bits, bit 15 the most significant (R10): an instruction, `pc`, `I`, a stack slot. -/
abbrev Word := BitVec 16

/-- The number of a general register, 0 to 15 (R20). -/
abbrev Reg := Fin 16

/-- MEM_SIZE: addresses 0x000 to 0xFFF (R6). -/
abbrev memSize : Nat := 4096

/-- PROGRAM_BASE: first address of the program image, and the reset value of `pc` (R6). -/
abbrev programBase : Nat := 0x200

/-- The bytes from PROGRAM_BASE to the end of memory: 3584 (R51, R221). -/
abbrev maxImage : Nat := 3584

/-- SCREEN_W: pixels per row (R6). -/
abbrev screenW : Nat := 64

/-- SCREEN_H: pixel rows (R6). -/
abbrev screenH : Nat := 32

end Sys2Proof
end

