-- ==== Sys2Proof/Config.lean ====
section
/-!
DEFINITION. What the spec leaves to a parameter (spec/00_scope.md R7) and the free values.
A `Config` is carried, unchanged by every step, in the state, so that a statement about every state
holds for every value of the parameters (assumption log 4).
-/

namespace Sys2Proof

/-- ALIAS_POLICY (R7, R82): what the decoder does with a word whose don't-care bits are not all zero. -/
inductive AliasPolicy where
  /-- The word executes as its canonical instruction (the spec's default). -/
  | execute
  /-- The word is an invalid instruction (the conservative setting). -/
  | invalid
deriving DecidableEq, Repr

/-- IPF (R30): any integer above 0. -/
abbrev Budget := { n : Nat // 0 < n }

/-- The open parameters of R7 that have a value per machine. -/
structure Config where
  /-- IPF: instruction cycles per tick. -/
  ipf : Budget
  /-- FONT_BASE: address of glyph 0, 0 to 0x1B0. -/
  fontBase : Fin 0x1B1
  /-- FONT_DATA: glyph g at bytes 5g to 5g + 4. -/
  fontData : Vector Byte 80
  /-- ALIAS_POLICY. -/
  aliasPolicy : AliasPolicy
deriving DecidableEq, Repr

/-- RND (R7, R134): the byte the k-th draw gives, under no law. FREE VALUE: nothing is known of it (log 3). -/
opaque Config.rnd : Nat → Byte

/-- The result of `load_program`, which the spec does not specify (R221, U21). FREE VALUE (log 10). -/
opaque Config.loadResult : Nat → Bool

/-- FONT_BASE of the machine of `State.reset` (R7): only its range is known (log 4). -/
opaque Config.hwFontBase : Fin 0x1B1

/-- The table R31 prints and allows as FONT_DATA's default. PRESUMED: general knowledge (log 5). -/
def Config.conventionalFont : Vector Byte 80 := #v[
  0xF0, 0x90, 0x90, 0x90, 0xF0,  0x20, 0x60, 0x20, 0x20, 0x70,
  0xF0, 0x10, 0xF0, 0x80, 0xF0,  0xF0, 0x10, 0xF0, 0x10, 0xF0,
  0x90, 0x90, 0xF0, 0x10, 0x10,  0xF0, 0x80, 0xF0, 0x10, 0xF0,
  0xF0, 0x80, 0xF0, 0x90, 0xF0,  0xF0, 0x10, 0x20, 0x40, 0x40,
  0xF0, 0x90, 0xF0, 0x90, 0xF0,  0xF0, 0x90, 0xF0, 0x10, 0xF0,
  0xF0, 0x90, 0xF0, 0x90, 0x90,  0xE0, 0x90, 0xE0, 0x90, 0xE0,
  0xF0, 0x80, 0x80, 0x80, 0xF0,  0xE0, 0x90, 0x90, 0x90, 0xE0,
  0xF0, 0x80, 0xF0, 0x80, 0xF0,  0xF0, 0x80, 0xF0, 0x80, 0x80]

/-- The configuration of `State.reset`. IPF = 5 is a DESIGN CHOICE, the argument of the source's own
scenario S1 (log 6); the font table is PRESUMED (log 5); `execute` is the spec's default (log 7). -/
def Config.atReset : Config where
  ipf := ⟨5, by decide⟩
  fontBase := Config.hwFontBase
  fontData := Config.conventionalFont
  aliasPolicy := .execute

end Sys2Proof
end

