-- ==== Sys2Proof/Syntax.lean ====
section
/-!
DEFINITION. The 34 instructions of spec/30_encoding.md R80, one constructor per row of
spec/opcode_table.json, in the table's order. Operands are the fields of R74, each in a type of the
field's own width: `x`, `y`, `n` below 16, `nn` 8 bits, `nnn` 12 bits.
-/

namespace Sys2Proof

/-- The instructions (R80); the docstrings give the table's pattern. -/
inductive Instr where
  /-- `00E0`: clear the screen. -/
  | cls
  /-- `00EE`: return. -/
  | ret
  /-- `1NNN`: jump. -/
  | jp (nnn : BitVec 12)
  /-- `2NNN`: call. -/
  | call (nnn : BitVec 12)
  /-- `3XNN`: skip if V[x] = nn. -/
  | seImm (x : Reg) (nn : Byte)
  /-- `4XNN`: skip if V[x] ≠ nn. -/
  | sneImm (x : Reg) (nn : Byte)
  /-- `5XY0`: skip if V[x] = V[y]. -/
  | seReg (x y : Reg)
  /-- `9XY0`: skip if V[x] ≠ V[y]. -/
  | sneReg (x y : Reg)
  /-- `6XNN`: V[x] = nn. -/
  | ldImm (x : Reg) (nn : Byte)
  /-- `7XNN`: V[x] += nn, no flag. -/
  | addImm (x : Reg) (nn : Byte)
  /-- `8XY0`: V[x] = V[y]. -/
  | ldReg (x y : Reg)
  /-- `8XY1`: OR. -/
  | orReg (x y : Reg)
  /-- `8XY2`: AND. -/
  | andReg (x y : Reg)
  /-- `8XY3`: XOR. -/
  | xorReg (x y : Reg)
  /-- `8XY4`: add, VF = carry. -/
  | addReg (x y : Reg)
  /-- `8XY5`: V[x] − V[y], VF = no borrow. -/
  | subReg (x y : Reg)
  /-- `8XY6`: V[x] = V[y] >> 1, VF = bit out. -/
  | shr (x y : Reg)
  /-- `8XY7`: V[x] = V[y] − V[x], VF = no borrow. -/
  | subn (x y : Reg)
  /-- `8XYE`: V[x] = V[y] << 1, VF = bit out. -/
  | shl (x y : Reg)
  /-- `ANNN`: I = nnn. -/
  | ldI (nnn : BitVec 12)
  /-- `BNNN`: pc = nnn + V[0]. -/
  | jpV0 (nnn : BitVec 12)
  /-- `CXNN`: V[x] = random AND nn. -/
  | rnd (x : Reg) (nn : Byte)
  /-- `DXYN`: draw n rows. -/
  | drw (x y : Reg) (n : Fin 16)
  /-- `EX9E`: skip if key V[x] is pressed. -/
  | skp (x : Reg)
  /-- `EXA1`: skip if key V[x] is not pressed. -/
  | sknp (x : Reg)
  /-- `FX07`: V[x] = DT. -/
  | ldVxDt (x : Reg)
  /-- `FX0A`: wait for the release of key V[x]. -/
  | wkr (x : Reg)
  /-- `FX15`: DT = V[x]. -/
  | ldDtVx (x : Reg)
  /-- `FX18`: ST = V[x]. -/
  | ldStVx (x : Reg)
  /-- `FX1E`: I += V[x]. -/
  | addI (x : Reg)
  /-- `FX29`: I = glyph address. -/
  | ldF (x : Reg)
  /-- `FX33`: store three decimal digits. -/
  | ldB (x : Reg)
  /-- `FX55`: store V[0..x]. -/
  | storeRegs (x : Reg)
  /-- `FX65`: load V[0..x]. -/
  | loadRegs (x : Reg)
deriving DecidableEq, Repr

end Sys2Proof
end

