-- ==== Sys2Proof/WellFormed.lean ====
section
/-!
DEFINITION. The checks on what comes from outside: operand values against their fields (R74, R76), the
arguments of the host's operations (R208, R220 to R223). Every term of `Instr` passes, since each
operand's type has its field's width; R76 allows every combination of operands (x = y, x or y = 15).
-/

namespace Sys2Proof

/-- A value fits an encoding field of the given width (R74). -/
def fitsField (width value : Nat) : Bool := value < 2 ^ width

/-- The operand fields of an instruction (R75): width and value, from the high bits down. -/
def Instr.fields : Instr → List (Nat × Nat)
  | .cls | .ret => []
  | .jp nnn | .call nnn | .ldI nnn | .jpV0 nnn => [(12, nnn.toNat)]
  | .seImm x nn | .sneImm x nn | .ldImm x nn | .addImm x nn | .rnd x nn => [(4, x), (8, nn.toNat)]
  | .seReg x y | .sneReg x y | .ldReg x y | .orReg x y | .andReg x y | .xorReg x y | .addReg x y
  | .subReg x y | .shr x y | .subn x y | .shl x y => [(4, x), (4, y)]
  | .drw x y n => [(4, x), (4, y), (4, n)]
  | .skp x | .sknp x | .ldVxDt x | .wkr x | .ldDtVx x | .ldStVx x | .addI x | .ldF x | .ldB x
  | .storeRegs x | .loadRegs x => [(4, x)]

/-- An instruction is well formed: every operand fits its field. -/
def Instr.wellFormed (i : Instr) : Bool := i.fields.all fun f => fitsField f.1 f.2

/-- `instructions_per_frame` is above 0 (R220). -/
def budgetOk (n : Int) : Bool := 0 < n

/-- The image fits the program area: the launch precondition L ≤ 3584 (R221). -/
def imageFits (b : List Byte) : Bool := b.length ≤ maxImage

/-- A key number of `set_key_state` is in range (R222). -/
def keyOk (k : Nat) : Bool := k < 16

/-- A pixel query is in bounds (R223). -/
def pixelOk (x y : Int) : Bool := 0 ≤ x && x < screenW && 0 ≤ y && y < screenH

end Sys2Proof
end

