-- ==== Sys2Proof/Decode.lean ====
section
/-!
DEFINITION. The opcode map of spec/30_encoding.md R80, the two-level decoder (R77 to R79, R81, R82),
and the encoder of canonical words (R75, R83).
-/

namespace Sys2Proof

/-- Why a decode stops. -/
inductive DecodeError where
  /-- Fewer than two bytes are left (R74: every instruction is two bytes). -/
  | truncated
  /-- The word matches no row of the map (R84). -/
  | invalidWord (w : Word)
  /-- The word is an alias encoding and ALIAS_POLICY is `invalid` (R82). -/
  | aliasWord (w : Word)
deriving DecidableEq, Repr

/-- `op`, bits 15 to 12 (R74). -/
def opField (w : Word) : BitVec 4 := w.extractLsb' 12 4

/-- `x`, bits 11 to 8 (R74). -/
def xField (w : Word) : Reg := (w.extractLsb' 8 4).toFin

/-- `y`, bits 7 to 4 (R74). -/
def yField (w : Word) : Reg := (w.extractLsb' 4 4).toFin

/-- `n`, bits 3 to 0 (R74). -/
def nField (w : Word) : BitVec 4 := w.extractLsb' 0 4

/-- `nn`, bits 7 to 0 (R74). -/
def nnField (w : Word) : Byte := w.extractLsb' 0 8

/-- `nnn`, bits 11 to 0 (R74). -/
def nnnField (w : Word) : BitVec 12 := w.extractLsb' 0 12

/-- The instruction of a word that has don't-care bits: the word is canonical, or an alias encoding,
which ALIAS_POLICY decides (R81, R82). -/
def withDontCare (p : AliasPolicy) (w : Word) (canonical : Bool) (i : Instr) : Except DecodeError Instr :=
  if canonical then .ok i
  else match p with
    | .execute => .ok i
    | .invalid => .error (.aliasWord w)

/-- Sub-dispatcher of op 0, key `nn` (R78); bits 11 to 8 are don't-care (R81). -/
def decodeOp0 (p : AliasPolicy) (w : Word) : Except DecodeError Instr :=
  if nnField w = 0xE0#8 then withDontCare p w (xField w == 0) .cls
  else if nnField w = 0xEE#8 then withDontCare p w (xField w == 0) .ret
  else .error (.invalidWord w)

/-- Sub-dispatcher of op 8, key `n` (R78). -/
def decodeOp8 (w : Word) : Except DecodeError Instr :=
  let x := xField w
  let y := yField w
  if nField w = 0x0#4 then .ok (.ldReg x y)
  else if nField w = 0x1#4 then .ok (.orReg x y)
  else if nField w = 0x2#4 then .ok (.andReg x y)
  else if nField w = 0x3#4 then .ok (.xorReg x y)
  else if nField w = 0x4#4 then .ok (.addReg x y)
  else if nField w = 0x5#4 then .ok (.subReg x y)
  else if nField w = 0x6#4 then .ok (.shr x y)
  else if nField w = 0x7#4 then .ok (.subn x y)
  else if nField w = 0xE#4 then .ok (.shl x y)
  else .error (.invalidWord w)

/-- Sub-dispatcher of op E, key `nn` (R78). -/
def decodeOpE (w : Word) : Except DecodeError Instr :=
  if nnField w = 0x9E#8 then .ok (.skp (xField w))
  else if nnField w = 0xA1#8 then .ok (.sknp (xField w))
  else .error (.invalidWord w)

/-- Sub-dispatcher of op F, key `nn` (R78). -/
def decodeOpF (w : Word) : Except DecodeError Instr :=
  let x := xField w
  if nnField w = 0x07#8 then .ok (.ldVxDt x)
  else if nnField w = 0x0A#8 then .ok (.wkr x)
  else if nnField w = 0x15#8 then .ok (.ldDtVx x)
  else if nnField w = 0x18#8 then .ok (.ldStVx x)
  else if nnField w = 0x1E#8 then .ok (.addI x)
  else if nnField w = 0x29#8 then .ok (.ldF x)
  else if nnField w = 0x33#8 then .ok (.ldB x)
  else if nnField w = 0x55#8 then .ok (.storeRegs x)
  else if nnField w = 0x65#8 then .ok (.loadRegs x)
  else .error (.invalidWord w)

/-- Decode (R79): the primary dispatch on `op` (R77), total on all words. -/
def decodeWord (p : AliasPolicy) (w : Word) : Except DecodeError Instr :=
  if opField w = 0x0#4 then decodeOp0 p w
  else if opField w = 0x1#4 then .ok (.jp (nnnField w))
  else if opField w = 0x2#4 then .ok (.call (nnnField w))
  else if opField w = 0x3#4 then .ok (.seImm (xField w) (nnField w))
  else if opField w = 0x4#4 then .ok (.sneImm (xField w) (nnField w))
  else if opField w = 0x5#4 then withDontCare p w (nField w == 0) (.seReg (xField w) (yField w))
  else if opField w = 0x6#4 then .ok (.ldImm (xField w) (nnField w))
  else if opField w = 0x7#4 then .ok (.addImm (xField w) (nnField w))
  else if opField w = 0x8#4 then decodeOp8 w
  else if opField w = 0x9#4 then withDontCare p w (nField w == 0) (.sneReg (xField w) (yField w))
  else if opField w = 0xA#4 then .ok (.ldI (nnnField w))
  else if opField w = 0xB#4 then .ok (.jpV0 (nnnField w))
  else if opField w = 0xC#4 then .ok (.rnd (xField w) (nnField w))
  else if opField w = 0xD#4 then .ok (.drw (xField w) (yField w) (nField w).toFin)
  else if opField w = 0xE#4 then decodeOpE w
  else decodeOpF w

/-- Two bytes as a word, the high byte first (R53). -/
def wordOfBytes (hi lo : Byte) : Word := hi ++ lo

/-- A word as its two bytes in memory order (R53). -/
def bytesOfWord (w : Word) : List Byte := [w.extractLsb' 8 8, w.extractLsb' 0 8]

/-- Decode the instruction at the head of a byte sequence, and give back the bytes after it. -/
def decodeBytes (p : AliasPolicy) : List Byte → Except DecodeError (Instr × List Byte)
  | hi :: lo :: rest =>
    match decodeWord p (wordOfBytes hi lo) with
    | .ok i => .ok (i, rest)
    | .error e => .error e
  | _ => .error .truncated

/-- A word from its four nibbles, `op` first (R75). -/
def ofNibbles (op x y n : BitVec 4) : Word := op ++ x ++ y ++ n

/-- A register number, or a row count, as a nibble (R74). -/
def regBits (x : Fin 16) : BitVec 4 := BitVec.ofFin x

/-- Format XI and XK: `op`, `x` and a low byte (R75). -/
def ofXByte (op : BitVec 4) (x : Reg) (nn : Byte) : Word := op ++ regBits x ++ nn

/-- Format XY: `op`, `x`, `y` and a low nibble (R75). -/
def ofXY (op : BitVec 4) (x y : Reg) (n : BitVec 4) : Word := ofNibbles op (regBits x) (regBits y) n

/-- Format A: `op` and an address (R75). -/
def ofAddr (op : BitVec 4) (nnn : BitVec 12) : Word := op ++ nnn

/-- The canonical encoding of an instruction: every don't-care bit zero (R83). -/
def encode : Instr → Word
  | .cls => 0x00E0#16
  | .ret => 0x00EE#16
  | .jp nnn => ofAddr 0x1#4 nnn
  | .call nnn => ofAddr 0x2#4 nnn
  | .seImm x nn => ofXByte 0x3#4 x nn
  | .sneImm x nn => ofXByte 0x4#4 x nn
  | .seReg x y => ofXY 0x5#4 x y 0x0#4
  | .sneReg x y => ofXY 0x9#4 x y 0x0#4
  | .ldImm x nn => ofXByte 0x6#4 x nn
  | .addImm x nn => ofXByte 0x7#4 x nn
  | .ldReg x y => ofXY 0x8#4 x y 0x0#4
  | .orReg x y => ofXY 0x8#4 x y 0x1#4
  | .andReg x y => ofXY 0x8#4 x y 0x2#4
  | .xorReg x y => ofXY 0x8#4 x y 0x3#4
  | .addReg x y => ofXY 0x8#4 x y 0x4#4
  | .subReg x y => ofXY 0x8#4 x y 0x5#4
  | .shr x y => ofXY 0x8#4 x y 0x6#4
  | .subn x y => ofXY 0x8#4 x y 0x7#4
  | .shl x y => ofXY 0x8#4 x y 0xE#4
  | .ldI nnn => ofAddr 0xA#4 nnn
  | .jpV0 nnn => ofAddr 0xB#4 nnn
  | .rnd x nn => ofXByte 0xC#4 x nn
  | .drw x y n => ofXY 0xD#4 x y (regBits n)
  | .skp x => ofXByte 0xE#4 x 0x9E#8
  | .sknp x => ofXByte 0xE#4 x 0xA1#8
  | .ldVxDt x => ofXByte 0xF#4 x 0x07#8
  | .wkr x => ofXByte 0xF#4 x 0x0A#8
  | .ldDtVx x => ofXByte 0xF#4 x 0x15#8
  | .ldStVx x => ofXByte 0xF#4 x 0x18#8
  | .addI x => ofXByte 0xF#4 x 0x1E#8
  | .ldF x => ofXByte 0xF#4 x 0x29#8
  | .ldB x => ofXByte 0xF#4 x 0x33#8
  | .storeRegs x => ofXByte 0xF#4 x 0x55#8
  | .loadRegs x => ofXByte 0xF#4 x 0x65#8

/-- A row of the opcode map (R80): a word selects it when `w AND mask = pattern`; `canon` is the mask
that fixes the don't-care bits at zero as well. -/
structure OpcodeRow where
  pattern : Word
  mask : Word
  canon : Word
deriving DecidableEq, Repr

/-- The word selects the row (R80). -/
def OpcodeRow.selects (r : OpcodeRow) (w : Word) : Bool := w &&& r.mask == r.pattern

/-- The row of an instruction (R80). -/
def rowOf : Instr → OpcodeRow
  | .cls => ⟨0x00E0, 0xF0FF, 0xFFFF⟩
  | .ret => ⟨0x00EE, 0xF0FF, 0xFFFF⟩
  | .jp _ => ⟨0x1000, 0xF000, 0xF000⟩
  | .call _ => ⟨0x2000, 0xF000, 0xF000⟩
  | .seImm _ _ => ⟨0x3000, 0xF000, 0xF000⟩
  | .sneImm _ _ => ⟨0x4000, 0xF000, 0xF000⟩
  | .seReg _ _ => ⟨0x5000, 0xF000, 0xF00F⟩
  | .sneReg _ _ => ⟨0x9000, 0xF000, 0xF00F⟩
  | .ldImm _ _ => ⟨0x6000, 0xF000, 0xF000⟩
  | .addImm _ _ => ⟨0x7000, 0xF000, 0xF000⟩
  | .ldReg _ _ => ⟨0x8000, 0xF00F, 0xF00F⟩
  | .orReg _ _ => ⟨0x8001, 0xF00F, 0xF00F⟩
  | .andReg _ _ => ⟨0x8002, 0xF00F, 0xF00F⟩
  | .xorReg _ _ => ⟨0x8003, 0xF00F, 0xF00F⟩
  | .addReg _ _ => ⟨0x8004, 0xF00F, 0xF00F⟩
  | .subReg _ _ => ⟨0x8005, 0xF00F, 0xF00F⟩
  | .shr _ _ => ⟨0x8006, 0xF00F, 0xF00F⟩
  | .subn _ _ => ⟨0x8007, 0xF00F, 0xF00F⟩
  | .shl _ _ => ⟨0x800E, 0xF00F, 0xF00F⟩
  | .ldI _ => ⟨0xA000, 0xF000, 0xF000⟩
  | .jpV0 _ => ⟨0xB000, 0xF000, 0xF000⟩
  | .rnd _ _ => ⟨0xC000, 0xF000, 0xF000⟩
  | .drw _ _ _ => ⟨0xD000, 0xF000, 0xF000⟩
  | .skp _ => ⟨0xE09E, 0xF0FF, 0xF0FF⟩
  | .sknp _ => ⟨0xE0A1, 0xF0FF, 0xF0FF⟩
  | .ldVxDt _ => ⟨0xF007, 0xF0FF, 0xF0FF⟩
  | .wkr _ => ⟨0xF00A, 0xF0FF, 0xF0FF⟩
  | .ldDtVx _ => ⟨0xF015, 0xF0FF, 0xF0FF⟩
  | .ldStVx _ => ⟨0xF018, 0xF0FF, 0xF0FF⟩
  | .addI _ => ⟨0xF01E, 0xF0FF, 0xF0FF⟩
  | .ldF _ => ⟨0xF029, 0xF0FF, 0xF0FF⟩
  | .ldB _ => ⟨0xF033, 0xF0FF, 0xF0FF⟩
  | .storeRegs _ => ⟨0xF055, 0xF0FF, 0xF0FF⟩
  | .loadRegs _ => ⟨0xF065, 0xF0FF, 0xF0FF⟩

/-- The opcode map (R80): the 34 rows, in the table's order. -/
def opcodeMap : List OpcodeRow :=
  [.cls, .ret, .jp 0, .call 0, .seImm 0 0, .sneImm 0 0, .seReg 0 0, .sneReg 0 0, .ldImm 0 0, .addImm 0 0,
   .ldReg 0 0, .orReg 0 0, .andReg 0 0, .xorReg 0 0, .addReg 0 0, .subReg 0 0, .shr 0 0, .subn 0 0,
   .shl 0 0, .ldI 0, .jpV0 0, .rnd 0 0, .drw 0 0 0, .skp 0, .sknp 0, .ldVxDt 0, .wkr 0, .ldDtVx 0,
   .ldStVx 0, .addI 0, .ldF 0, .ldB 0, .storeRegs 0, .loadRegs 0].map rowOf

/-- The word of a row of the table given as `nbits` bits: bits above `nbits` are zero. -/
def tableWord (nbits w : Nat) : Word := BitVec.ofNat 16 (w % 2 ^ nbits)

/-- The instruction the decoder reads from a table word laid out as the hardware stores it: two bytes,
the high byte first (R53), under the default ALIAS_POLICY (R82). -/
def decodeTableWord (nbits w : Nat) : Option Instr :=
  match decodeBytes .execute (bytesOfWord (tableWord nbits w)) with
  | .ok (i, _) => some i
  | .error _ => none

end Sys2Proof
end

