-- ==== Sys2Proof/Machine/State.lean ====
section
/-!
DEFINITION. The machine's state (spec/10_state.md R20 to R33), its reset value (R40), the execution
errors (spec/60_exceptions.md R200) and the reasons a step could stop.
-/

namespace Sys2Proof.Machine

/-- Execution errors E1 to E6 with their `info` (R200). They are taken, as a next state, by
`State.raise`; the names are the spec's, the hardware stores no cause (R201). -/
inductive ExecError where
  /-- E1: `ir` matches no row of the opcode map (R84), or is an alias word the policy refuses (R82). -/
  | invalidInstruction (w : Word)
  /-- E2: fetch with `pc` above 0xFFE (R72). -/
  | fetchOutOfRange (pc : Word)
  /-- E3: some byte of the instruction's range is above 0xFFF; the lowest such address (R52). -/
  | addressOutOfRange (a : Nat)
  /-- E4: `2NNN` with sp = 15 (R102). -/
  | stackOverflow
  /-- E5: `00EE` with sp = 0 (R101). -/
  | stackUnderflow
  /-- E6: a key instruction with V[x] above 15 (R170). -/
  | keyIndexOutOfRange (k : Byte)
deriving DecidableEq, Repr

/-- What a tick reports (R201, R210): success, or failure with the error that ended it. -/
inductive TickResult where
  | success
  | failure (e : ExecError)
deriving DecidableEq, Repr

/-- Memory as the addresses whose byte differs from the reset contents: strictly rising addresses, no
entry equal to what an unlisted address reads as (log 14). -/
abbrev Memory := List Host.Cell

/-- The screen: 32 rows of 64 pixels, row-major, true = lit (R27). -/
abbrev Screen := Vector (Vector Bool 64) 32

/-- The state. The first group is the hardware's; `cfg` the parameters (R7); the last group the model's. -/
structure State where
  /-- V[0] to V[15] (R20). -/
  v : Vector Byte 16
  /-- The index register I (R22). -/
  i : Word
  /-- The program counter (R23). -/
  pc : Word
  /-- The stack pointer, 0 to 15 (R24). -/
  sp : Fin 16
  /-- The stack slots S[0] to S[15] (R24). -/
  stack : Vector Word 16
  /-- The delay timer DT (R25). -/
  dt : Byte
  /-- The sound timer ST (R25). -/
  st : Byte
  /-- `keyboard_state`, K (R26). -/
  keys : Vector Bool 16
  /-- `last_frame_keyboard_state`, KP (R26). -/
  keysPrev : Vector Bool 16
  /-- The screen buffer FB (R27). -/
  fb : Screen
  /-- `vblank_state` (R28). -/
  vblank : Bool
  /-- `current_instruction` (R29). -/
  ir : Word
  /-- The 4096 bytes of memory (R31, R50). -/
  mem : Memory
  /-- IPF (R30) and the other parameters (R7), changed by no step. -/
  cfg : Config
  /-- MODEL: the iteration index of the next cycle inside its tick; 0 between ticks (R30, log 1). -/
  iter : Nat
  /-- MODEL: the result of the tick the last step ended, if it ended one (R33, R201, log 2). -/
  report : Option TickResult
  /-- MODEL: the sticky mark that an execution error has occurred (R205, log 2). -/
  errorSeen : Bool
  /-- MODEL: how many free values have been drawn (R134, log 3). -/
  fresh : Nat
deriving DecidableEq, Repr

/-- The reset state for given parameters (R40), with nothing of a run kept. -/
def State.initial (c : Config) : State where
  v := Vector.replicate 16 0
  i := 0
  pc := 0x200
  sp := 0
  stack := Vector.replicate 16 0
  dt := 0
  st := 0
  keys := Vector.replicate 16 false
  keysPrev := Vector.replicate 16 false
  fb := Vector.replicate 32 (Vector.replicate 64 false)
  vblank := false
  ir := 0
  mem := []
  cfg := c
  iter := 0
  report := none
  errorSeen := false
  fresh := 0

/-- The machine right after reset (R40), with the parameters of `Config.atReset` (log 4 to 7). -/
def State.reset : State := State.initial Config.atReset

/-- Why a step could stop with a fault: NO reason exists. Every execution error of the spec (R200) ends
its tick and leaves a state from which the next tick runs (R203, R205), so each is taken as a next
state, and no state is stuck (spec/93_implementation_defined.md, end of Part A). Safe (log 2, 16). -/
inductive Fault : Type
deriving DecidableEq, Repr

/-- Why a step or a host operation is refused. -/
inductive Refusal where
  /-- Raised by `exec` for an instruction without a meaning (there is none left). Safe. -/
  | notModelled (mnemonic : String)
  /-- Raised by `hostStep`, never by `step`: a host operation while a tick is in progress, to which the
  spec gives no meaning (R8, D29, U10). Safe (log 9). -/
  | hostActionDuringTick
deriving DecidableEq, Repr

/-- What a meaning answers. -/
abbrev Result := Host.Outcome State Fault Refusal

end Sys2Proof.Machine
end

