-- ==== Sys2Proof/Machine/Ops.lean ====
section
/-!
DEFINITION. The named operations over the state: registers, memory, stack, screen, timers, keys, taking
an execution error, fetch. There is no return from an error (spec/60_exceptions.md R205): the next tick
runs from the state `State.raise` leaves.
-/

namespace Sys2Proof.Machine

/-! ### Registers -/

/-- `V[x]` (R11, R20). -/
def State.getV (s : State) (x : Reg) : Byte := s.v[x.val]

/-- `V[x] <- b` (R11, R20). -/
def State.setV (s : State) (x : Reg) (b : Byte) : State := { s with v := s.v.set x.val b }

/-- `I <- a` (R11, R22). -/
def State.setI (s : State) (a : Word) : State := { s with i := a }

/-- `pc <- a`, unchecked (R100). -/
def State.setPc (s : State) (a : Word) : State := { s with pc := a }

/-- `skip`: `pc <- pc + 2` on top of fetch's advance (R11, R103). -/
def State.skip (s : State) : State := s.setPc (s.pc + 2)

/-- `retry`: `pc <- pc - 2`, so that the same word is fetched again (R11, R160). -/
def State.retry (s : State) : State := s.setPc (s.pc - 2)

/-- Skip if the condition holds (R103). -/
def State.skipIf (s : State) (c : Bool) : State := if c then s.skip else s

/-- The flag register VF is V[15] (R21). -/
abbrev vf : Reg := 15

/-- Result first, flag last (R121). -/
def State.setVThenFlag (s : State) (x : Reg) (result flag : Byte) : State := (s.setV x result).setV vf flag

/-- `draw_byte()`: a fresh free value (R11, R134). -/
def State.drawByte (s : State) : Byte × State := (Config.rnd s.fresh, { s with fresh := s.fresh + 1 })

/-! ### Execution errors -/

/-- Taking an execution error (R202, R203): nothing of the failing instruction happens, the tick aborts
and reports failure, the mark of R205 is set. The registers are what fetch left. -/
def State.raise (s : State) (e : ExecError) : State :=
  { s with iter := 0, report := some (.failure e), errorSeen := true }

/-! ### Memory -/

/-- What a byte of memory holds after reset, and so what an unlisted address reads as (R40): the font
table at FONT_BASE, 0 elsewhere. The font lies below 0x200 by its range (R7). -/
def resetByte (c : Config) (a : Nat) : Byte :=
  if a < 0x200 then
    if c.fontBase.val ≤ a then c.fontData[a - c.fontBase.val]?.getD 0 else 0
  else 0

/-- The byte a list of cells holds at an address, over the background `bg`. -/
def Memory.look (bg : Nat → Byte) : Memory → Nat → Byte
  | [], a => bg a
  | (b, u) :: m, a => if a = b then u else Memory.look bg m a

/-- The list with the byte at `a` replaced, in canonical form: nothing is listed at an address whose byte
is the background's. -/
def Memory.put (bg : Nat → Byte) : Memory → Nat → Byte → Memory
  | [], a, u => if u = bg a then [] else [(a, u)]
  | (b, w) :: m, a, u =>
    if a < b then (if u = bg a then (b, w) :: m else (a, u) :: (b, w) :: m)
    else if a = b then (if u = bg a then m else (a, u) :: m)
    else (b, w) :: Memory.put bg m a u

/-- Canonical from address `lo` up: strictly rising addresses below 4096, no cell equal to the background. -/
def Memory.wfFrom (bg : Nat → Byte) : Nat → Memory → Bool
  | _, [] => true
  | lo, (a, u) :: m => decide (lo ≤ a) && decide (a < memSize) && (u != bg a) && Memory.wfFrom bg (a + 1) m

/-- The canonical form of memory (log 14). -/
def Memory.wf (c : Config) (m : Memory) : Bool := Memory.wfFrom (resetByte c) 0 m

/-- `MemRead(a, 1)` (R11, R57). Defined for a ≤ 0xFFF: every reader checks its range first (R52). -/
def State.readByte (s : State) (a : Nat) : Byte := Memory.look (resetByte s.cfg) s.mem a

/-- `MemWrite(a, 1, b)` (R11, R57). Every writer checks its range first (R52); no address above 0xFFF exists. -/
def State.writeByte (s : State) (a : Nat) (b : Byte) : State :=
  if a < memSize then { s with mem := Memory.put (resetByte s.cfg) s.mem a b } else s

/-- The bytes written at rising addresses from `a`, up to the end of memory (R221). -/
def State.writeBytes (s : State) (a : Nat) : List Byte → State
  | [] => s
  | b :: bs => (s.writeByte a b).writeBytes (a + 1) bs

/-- The check on the whole range `a .. a + len - 1` (R52, R146): the error, with the lowest offending
address, if a byte of it lies above 0xFFF. -/
def rangeError (a len : Nat) : Option ExecError :=
  if 0 < len ∧ 0xFFF < a + len - 1 then some (.addressOutOfRange (max a 0x1000)) else none

/-! ### Stack -/

/-- Push, pre-incrementing (R24). The caller has checked sp < 15 (R102). -/
def State.push (s : State) (a : Word) : State :=
  { s with sp := s.sp + 1, stack := s.stack.set (s.sp + 1).val a }

/-- Pop into `pc`, clear the slot, decrement (R24). The caller has checked sp > 0 (R101). -/
def State.popPc (s : State) : State :=
  { s with pc := s.stack[s.sp.val], stack := s.stack.set s.sp.val 0, sp := s.sp - 1 }

/-! ### Screen -/

/-- The pixel at column `xx`, row `yy` (R27); off the screen, unlit. -/
def Screen.lit (fb : Screen) (yy xx : Nat) : Bool :=
  if h : yy < 32 ∧ xx < 64 then (fb[yy]'h.1)[xx]'h.2 else false

/-- The screen with one pixel set; off the screen, unchanged. -/
def Screen.put (fb : Screen) (yy xx : Nat) (b : Bool) : Screen :=
  if h : yy < 32 ∧ xx < 64 then fb.set yy ((fb[yy]'h.1).set xx b h.2) h.1 else fb

/-- All pixels unlit (R161). -/
def blankScreen : Screen := Vector.replicate 32 (Vector.replicate 64 false)

/-- The screen buffer replaced. -/
def State.setFb (s : State) (fb : Screen) : State := { s with fb := fb }

/-! ### Timers, keys -/

/-- DT replaced (R175). -/
def State.setDt (s : State) (b : Byte) : State := { s with dt := b }

/-- ST replaced (R176). -/
def State.setSt (s : State) (b : Byte) : State := { s with st := b }

/-- A timer after one tick: one less, held at 0 (R211). -/
def tickDown (t : Byte) : Byte := if t = 0 then 0 else t - 1

/-- The timer phase, `update_timers` (R211, R227). -/
def State.updateTimers (s : State) : State := { s with dt := tickDown s.dt, st := tickDown s.st }

/-- The keyboard snapshot (R213). -/
def State.snapshotKeys (s : State) : State := { s with keysPrev := s.keys }

/-! ### Fetch -/

/-- The word at `pc`: the high byte at `pc`, the low byte at `pc + 1` (R53, R71). -/
def State.fetchedWord (s : State) : Word :=
  wordOfBytes (s.readByte s.pc.toNat) (s.readByte (s.pc.toNat + 1))

/-- The state after a fetch that succeeds: the word in `ir`, `pc` past it (R71). -/
def State.fetched (s : State) : State := { s with ir := s.fetchedWord, pc := s.pc + 2 }

/-- Fetch, `fetch_next_instruction` (R71, R72, R227): the error changes nothing. -/
def State.fetch (s : State) : Except ExecError State :=
  if 0xFFE < s.pc.toNat then .error (.fetchOutOfRange s.pc) else .ok s.fetched

/-! ### The tick's own state -/

/-- The start of an instruction cycle: no report is out yet; the timer phase if the cycle is the first of
its tick (R210, R211); `vblank` true on iteration 0 only (R212). -/
def State.beginCycle (s : State) : State :=
  let t := if s.iter = 0 then s.updateTimers else s
  { t with vblank := decide (s.iter = 0), report := none }

/-- The end of a tick in which no cycle failed: the snapshot, then success (R210, R213). -/
def State.endTick (s : State) : State := { s.snapshotKeys with iter := 0, report := some .success }

/-- The end of an instruction cycle (R210): an error has already ended the tick (R202); otherwise the next
iteration follows, or, after the last of the IPF iterations, the tick ends. -/
def State.endCycle (s : State) : State :=
  match s.report with
  | some _ => s
  | none => if s.iter + 1 < s.cfg.ipf.val then { s with iter := s.iter + 1 } else s.endTick

end Sys2Proof.Machine
end

