-- ==== Sys2Proof/Machine/Operands.lean ====
section
/-!
DEFINITION. The operand forms (spec/30_encoding.md R76, 42_index_memory.md R146): immediates used
unsigned and zero-extended, the byte range at I, the glyph address, the key number in V[x], the decimal
digits of FX33, the sprite of DXYN.
-/

namespace Sys2Proof.Machine

/-- An address operand `nnn` as a 16-bit value (R76). -/
def addrOperand (nnn : BitVec 12) : Word := nnn.setWidth 16

/-- A byte zero-extended to 16 bits (R76, R141). -/
def byteOperand (b : Byte) : Word := b.setWidth 16

/-- The address I + k of the one addressing mode, without a mask (R146). -/
def State.atI (s : State) (k : Nat) : Nat := s.i.toNat + k

/-- The check on the `len` bytes from I (R146). -/
def State.rangeAtI (s : State) (len : Nat) : Option ExecError := rangeError s.i.toNat len

/-- `I` advanced past `k` bytes, modulo 65536 (R144, R145). -/
def State.advanceI (s : State) (k : Nat) : State := s.setI (s.i + BitVec.ofNat 16 k)

/-- FONT_BASE + 5 * (low nibble of b) (R142). -/
def glyphAddr (c : Config) (b : Byte) : Word := BitVec.ofNat 16 (c.fontBase.val + 5 * (b.toNat % 16))

/-- The key that V[x] names, if it is 0 to 15 (R170). -/
def keyOperand (b : Byte) : Option (Fin 16) := if h : b.toNat < 16 then some ⟨b.toNat, h⟩ else none

/-- The three decimal digits, most significant first (R143). -/
def decimalDigits (b : Byte) : List Byte :=
  [BitVec.ofNat 8 (b.toNat / 100), BitVec.ofNat 8 (b.toNat / 10 % 10), BitVec.ofNat 8 (b.toNat % 10)]

/-- V[0] to V[x], in rising order (R144). -/
def State.regsUpTo (s : State) (x : Reg) : List Byte := s.v.toList.take (x.val + 1)

/-- The registers with V[0] to V[x] replaced by the bytes at I + 0 to I + x (R145). -/
def State.loadedRegs (s : State) (x : Reg) : Vector Byte 16 :=
  Vector.ofFn fun k => if k.val ≤ x.val then s.readByte (s.atI k.val) else s.v[k.val]

end Sys2Proof.Machine
end

