-- ==== Sys2Proof/Machine/Control.lean ====
section
/-!
DEFINITION. Control transfer (spec/40_control_flow.md). On entry `pc` is the instruction's address plus 2 (R71).
-/

namespace Sys2Proof.Machine

/-- `00EE` (R101): StackUnderflow when the stack is empty, else pop into `pc`. -/
def execRet (s : State) : Result :=
  if s.sp = 0 then .next (s.raise .stackUnderflow) else .next s.popPc

/-- `1NNN` (R105). -/
def execJp (nnn : BitVec 12) (s : State) : Result := .next (s.setPc (addrOperand nnn))

/-- `2NNN` (R102): StackOverflow when sp = 15, else push the advanced `pc` and jump. -/
def execCall (nnn : BitVec 12) (s : State) : Result :=
  if s.sp = 15 then .next (s.raise .stackOverflow)
  else .next ((s.push s.pc).setPc (addrOperand nnn))

/-- `BNNN` (R104): always V[0], the sum not masked to 12 bits. -/
def execJpV0 (nnn : BitVec 12) (s : State) : Result :=
  .next (s.setPc (addrOperand nnn + byteOperand (s.getV 0)))

/-- `3XNN` (R106). -/
def execSeImm (x : Reg) (nn : Byte) (s : State) : Result := .next (s.skipIf (s.getV x == nn))

/-- `4XNN` (R107). -/
def execSneImm (x : Reg) (nn : Byte) (s : State) : Result := .next (s.skipIf (s.getV x != nn))

/-- `5XY0` (R108). -/
def execSeReg (x y : Reg) (s : State) : Result := .next (s.skipIf (s.getV x == s.getV y))

/-- `9XY0` (R109). -/
def execSneReg (x y : Reg) (s : State) : Result := .next (s.skipIf (s.getV x != s.getV y))

end Sys2Proof.Machine
end

