-- ==== Sys2Proof/Machine/Flags.lean ====
section
/-!
DEFINITION. The arithmetic and every value the flag VF takes (spec/10_state.md R21, 41_load_alu.md R122).
-/

namespace Sys2Proof.Machine

/-- A condition as a flag value: 1 if it holds, else 0 (R21). -/
def flagOf (c : Bool) : Byte := if c then 1 else 0

/-- The exact sum modulo 256 (R122). -/
def addByte (a b : Byte) : Byte := BitVec.ofNat 8 (a.toNat + b.toNat)

/-- Carry: 1 iff the exact sum exceeds 255 (R122, R129). -/
def carryFlag (a b : Byte) : Byte := flagOf (decide (255 < a.toNat + b.toNat))

/-- The exact difference modulo 256 (R122). -/
def subByte (a b : Byte) : Byte := BitVec.ofNat 8 (a.toNat + 256 - b.toNat)

/-- No borrow: 1 iff minuend ≥ subtrahend (R122, R130, R132). -/
def noBorrowFlag (a b : Byte) : Byte := flagOf (decide (b.toNat ≤ a.toNat))

/-- Shift right by one, the vacated bit 0 (R122, R131). -/
def shrByte (b : Byte) : Byte := b >>> 1

/-- The bit a right shift moves out: bit 0 (R131). -/
def shrFlag (b : Byte) : Byte := flagOf (b.getLsbD 0)

/-- Shift left by one, the vacated bit 0 (R122, R133). -/
def shlByte (b : Byte) : Byte := b <<< 1

/-- The bit a left shift moves out: bit 7 (R133). -/
def shlFlag (b : Byte) : Byte := flagOf (b.getLsbD 7)

/-- The flag of OR, AND, XOR: 0 always (R126 to R128). -/
def resetFlag : Byte := flagOf false

end Sys2Proof.Machine
end

