-- ==== Sys2Proof/Machine/Display.lean ====
section
/-!
DEFINITION. The screen instructions and the vblank gate (spec/43_display.md).
-/

namespace Sys2Proof.Machine

/-- Draw column `c` of a sprite row into row `yy` (R163 step 4): bit 7 - c of the byte (R162) turns the
pixel over, unless it is clipped; the Bool says whether a lit pixel has been turned off so far. -/
def drawPixel (x0 yy : Nat) (b : Byte) (acc : Screen × Bool) (c : Nat) : Screen × Bool :=
  if x0 + c < screenW ∧ b.getLsbD (7 - c) = true then
    (acc.1.put yy (x0 + c) (!acc.1.lit yy (x0 + c)), acc.2 || acc.1.lit yy (x0 + c))
  else acc

/-- Draw the eight columns of one sprite row (R163 step 4). -/
def drawRow (x0 yy : Nat) (b : Byte) (acc : Screen × Bool) : Screen × Bool :=
  (List.range 8).foldl (drawPixel x0 yy b) acc

/-- Draw sprite row `r`, unless it is clipped (R163 step 4). -/
def State.drawSpriteRow (s : State) (x0 y0 : Nat) (acc : Screen × Bool) (r : Nat) : Screen × Bool :=
  if y0 + r < screenH then drawRow x0 (y0 + r) (s.readByte (s.atI r)) acc else acc

/-- Draw rows 0 to n - 1 (R163 step 4): the new screen, and whether any pixel went from lit to unlit. -/
def State.drawSprite (s : State) (x0 y0 n : Nat) : Screen × Bool :=
  (List.range n).foldl (s.drawSpriteRow x0 y0) (s.fb, false)

/-- `00E0` (R161), gated by vblank (R160). -/
def execCls (s : State) : Result :=
  if s.vblank then .next (s.setFb blankScreen) else .next s.retry

/-- `DXYN` (R163): the gate, the range check over all n rows, the coordinates, the rows, then VF. -/
def execDrw (x y : Reg) (n : Fin 16) (s : State) : Result :=
  if s.vblank then
    match s.rangeAtI n.val with
    | some e => .next (s.raise e)
    | none =>
      let drawn := s.drawSprite ((s.getV x).toNat % screenW) ((s.getV y).toNat % screenH) n.val
      .next ((s.setFb drawn.1).setV vf (flagOf drawn.2))
  else .next s.retry

end Sys2Proof.Machine
end

