-- ==== Sys2Proof/Machine/IndexMemory.lean ====
section
/-!
DEFINITION. Index register and memory transfer (spec/42_index_memory.md). The whole range is checked before
anything is changed (R146).
-/

namespace Sys2Proof.Machine

/-- `ANNN` (R140). -/
def execLdI (nnn : BitVec 12) (s : State) : Result := .next (s.setI (addrOperand nnn))

/-- `FX1E` (R141): modulo 65536, no flag. -/
def execAddI (x : Reg) (s : State) : Result := .next (s.setI (s.i + byteOperand (s.getV x)))

/-- `FX29` (R142). -/
def execLdF (x : Reg) (s : State) : Result := .next (s.setI (glyphAddr s.cfg (s.getV x)))

/-- `FX33` (R143): three bytes from I; I is not changed. -/
def execLdB (x : Reg) (s : State) : Result :=
  match s.rangeAtI 3 with
  | some e => .next (s.raise e)
  | none => .next (s.writeBytes (s.atI 0) (decimalDigits (s.getV x)))

/-- `FX55` (R144): V[0] to V[x] in rising order, then I past the block. -/
def execStoreRegs (x : Reg) (s : State) : Result :=
  match s.rangeAtI (x.val + 1) with
  | some e => .next (s.raise e)
  | none => .next ((s.writeBytes (s.atI 0) (s.regsUpTo x)).advanceI (x.val + 1))

/-- `FX65` (R145): V[0] to V[x] from the bytes at I, then I past the block. -/
def execLoadRegs (x : Reg) (s : State) : Result :=
  match s.rangeAtI (x.val + 1) with
  | some e => .next (s.raise e)
  | none => .next (State.advanceI { s with v := s.loadedRegs x } (x.val + 1))

end Sys2Proof.Machine
end

