-- ==== Sys2Proof/Machine/KeysTimers.lean ====
section
/-!
DEFINITION. Keyboard and timer instructions (spec/44_keyboard_timers.md).
-/

namespace Sys2Proof.Machine

/-- `EX9E` (R171): the current key state only. -/
def execSkp (x : Reg) (s : State) : Result :=
  match keyOperand (s.getV x) with
  | none => .next (s.raise (.keyIndexOutOfRange (s.getV x)))
  | some k => .next (s.skipIf s.keys[k.val])

/-- `EXA1` (R172). -/
def execSknp (x : Reg) (s : State) : Result :=
  match keyOperand (s.getV x) with
  | none => .next (s.raise (.keyIndexOutOfRange (s.getV x)))
  | some k => .next (s.skipIf (!s.keys[k.val]))

/-- `FX0A` (R173): goes on when the key was pressed in the snapshot and is up now, else retries; V[x] is
read and no register is written. -/
def execWkr (x : Reg) (s : State) : Result :=
  match keyOperand (s.getV x) with
  | none => .next (s.raise (.keyIndexOutOfRange (s.getV x)))
  | some k => if s.keysPrev[k.val] && !s.keys[k.val] then .next s else .next s.retry

/-- `FX07` (R174). -/
def execLdVxDt (x : Reg) (s : State) : Result := .next (s.setV x s.dt)

/-- `FX15` (R175). -/
def execLdDtVx (x : Reg) (s : State) : Result := .next (s.setDt (s.getV x))

/-- `FX18` (R176). -/
def execLdStVx (x : Reg) (s : State) : Result := .next (s.setSt (s.getV x))

end Sys2Proof.Machine
end

