-- ==== Sys2Proof/Machine/LoadAlu.lean ====
section
/-!
DEFINITION. Register load, ALU and random (spec/41_load_alu.md). Both operands are read before anything is
written; V[x] is written first, VF last (R121).
-/

namespace Sys2Proof.Machine

/-- `6XNN` (R123). -/
def execLdImm (x : Reg) (nn : Byte) (s : State) : Result := .next (s.setV x nn)

/-- `7XNN` (R124): the flag is not written. -/
def execAddImm (x : Reg) (nn : Byte) (s : State) : Result := .next (s.setV x (addByte (s.getV x) nn))

/-- `8XY0` (R125). -/
def execLdReg (x y : Reg) (s : State) : Result := .next (s.setV x (s.getV y))

/-- `8XY1` (R126). -/
def execOrReg (x y : Reg) (s : State) : Result := .next (s.setVThenFlag x (s.getV x ||| s.getV y) resetFlag)

/-- `8XY2` (R127). -/
def execAndReg (x y : Reg) (s : State) : Result := .next (s.setVThenFlag x (s.getV x &&& s.getV y) resetFlag)

/-- `8XY3` (R128). -/
def execXorReg (x y : Reg) (s : State) : Result := .next (s.setVThenFlag x (s.getV x ^^^ s.getV y) resetFlag)

/-- `8XY4` (R129). -/
def execAddReg (x y : Reg) (s : State) : Result :=
  .next (s.setVThenFlag x (addByte (s.getV x) (s.getV y)) (carryFlag (s.getV x) (s.getV y)))

/-- `8XY5` (R130): minuend V[x], subtrahend V[y]. -/
def execSubReg (x y : Reg) (s : State) : Result :=
  .next (s.setVThenFlag x (subByte (s.getV x) (s.getV y)) (noBorrowFlag (s.getV x) (s.getV y)))

/-- `8XY6` (R131): the source is V[y]. -/
def execShr (x y : Reg) (s : State) : Result :=
  .next (s.setVThenFlag x (shrByte (s.getV y)) (shrFlag (s.getV y)))

/-- `8XY7` (R132): minuend V[y], subtrahend V[x]. -/
def execSubn (x y : Reg) (s : State) : Result :=
  .next (s.setVThenFlag x (subByte (s.getV y) (s.getV x)) (noBorrowFlag (s.getV y) (s.getV x)))

/-- `8XYE` (R133): the source is V[y]. -/
def execShl (x y : Reg) (s : State) : Result :=
  .next (s.setVThenFlag x (shlByte (s.getV y)) (shlFlag (s.getV y)))

/-- `CXNN` (R134): one fresh draw per execution. -/
def execRnd (x : Reg) (nn : Byte) (s : State) : Result :=
  .next (s.drawByte.2.setV x (s.drawByte.1 &&& nn))

end Sys2Proof.Machine
end

