-- ==== Sys2Proof/Machine/Cycle.lean ====
section
/-!
DEFINITION. The instruction cycle (spec/30_encoding.md R70 to R73) and the tick, `tick_frame`
(spec/60_exceptions.md R210), both made of the stepping primitives of R227.
-/

namespace Sys2Proof.Machine

/-- Execute, `execute_current_instruction` (R73, R227): decode `ir` under ALIAS_POLICY, then dispatch. -/
def executeCurrent (s : State) : Result :=
  match decodeWord s.cfg.aliasPolicy s.ir with
  | .error _ => .next (s.raise (.invalidInstruction s.ir))
  | .ok i => exec i s

/-- Fetch then execute (R70); an error of either is taken. -/
def fetchExecute (s : State) : Result :=
  match s.fetch with
  | .error e => .next (s.raise e)
  | .ok t => executeCurrent t

/-- One instruction cycle at its place in the tick (R210): the model's step. -/
def runCycle (s : State) : Result :=
  match fetchExecute s.beginCycle with
  | .next t => .next t.endCycle
  | .fault f => .fault f
  | .refused r => .refused r

/-- The instruction loop of `tick_frame` from iteration `i`, with `k` iterations to go (R210): each sets
`vblank`, fetches and executes; an error ends the loop (R202); after the last comes the snapshot (R213). -/
def tickLoop : Nat → Nat → State → Result
  | 0, _, s => .next s.endTick
  | k + 1, i, s =>
    match fetchExecute { s with vblank := decide (i = 0), iter := i } with
    | .next t =>
      match t.report with
      | some _ => .next t
      | none => tickLoop k (i + 1) t
    | .fault f => .fault f
    | .refused r => .refused r

/-- `tick_frame` (R210): the timer phase, then IPF iterations. The result it reports is the `report` field
of the state it answers. -/
def tickFrame (s : State) : Result :=
  tickLoop s.cfg.ipf.val 0 (State.updateTimers { s with report := none })

end Sys2Proof.Machine
end

