-- ==== Sys2Proof/Machine/Step.lean ====
section
/-!
DEFINITION. The step: one instruction cycle (spec/30_encoding.md R70, 10_state.md R30; assumption log 1).
-/

namespace Sys2Proof.Machine

/-- One instruction cycle, with the timer phase before the first of a tick and the end of the tick after
the last. -/
def step (s : State) : Host.Outcome State Fault Refusal := runCycle s

/-- The state with the table word stored, high byte first, where the next fetch reads (R53). A `pc` from
which nothing can be fetched (R72) is moved to PROGRAM_BASE first. Stands for the host's `load_program`
(log 13). -/
def State.withFetchWord (s : State) (nbits w : Nat) : State :=
  let t := if 0xFFE < s.pc.toNat then s.setPc 0x200 else s
  t.writeBytes t.pc.toNat (bytesOfWord (tableWord nbits w))

end Sys2Proof.Machine
end

