-- ==== Sys2Proof/Machine/HostOps.lean ====
section
/-!
DEFINITION. The host's operations (spec/60_exceptions.md R220 to R228), each one atomic transaction (R12)
allowed between ticks only (R8).
-/

namespace Sys2Proof.Machine

/-- What a host operation answers. -/
inductive HostReply where
  | success
  | failure
  /-- `get_pixel` in bounds: lit or not. -/
  | pixel (lit : Bool)
  /-- `get_screen_width`, `get_screen_height`. -/
  | size (n : Nat)
  /-- `should_play_sound`. -/
  | sound (on : Bool)
deriving DecidableEq, Repr

/-- The host's operations (R228). -/
inductive HostOp where
  | initializeOp (n : Int)
  | resetOp
  | loadProgram (image : List Byte)
  | setKeyState (key : Nat) (pressed : Bool)
  | getPixel (x y : Int)
  | getScreenWidth
  | getScreenHeight
  | shouldPlaySound
  | tickFrame
deriving DecidableEq, Repr

/-- Every piece of hardware state at its reset value for the given parameters (R40); the model's record of
errors and of draws goes on (log 12). -/
def State.restart (s : State) (c : Config) : State :=
  { State.initial c with errorSeen := s.errorSeen, fresh := s.fresh }

/-- `initialize(n)` (R220). -/
def hostInitialize (n : Int) (s : State) : HostReply × State :=
  if h : 0 < n then (.success, s.restart { s.cfg with ipf := ⟨n.toNat, by omega⟩ }) else (.failure, s)

/-- `reset` (R225): IPF is kept; it cannot fail. -/
def hostReset (s : State) : HostReply × State := (.success, s.restart s.cfg)

/-- `load_program` (R221): the bytes go to 0x200 upward until the stream or memory ends. The result is a
free value (U21, log 10). -/
def hostLoadProgram (image : List Byte) (s : State) : HostReply × State :=
  (if Config.loadResult s.fresh then .success else .failure,
    State.writeBytes { s with fresh := s.fresh + 1 } programBase (image.take maxImage))

/-- `set_key_state(key, pressed)` (R222). -/
def hostSetKeyState (key : Nat) (pressed : Bool) (s : State) : HostReply × State :=
  if keyOk key then (.success, { s with keys := s.keys.setIfInBounds key pressed }) else (.failure, s)

/-- `get_pixel(x, y)` (R223): column x, row y. -/
def hostGetPixel (x y : Int) (s : State) : HostReply :=
  if pixelOk x y then .pixel (s.fb.lit y.toNat x.toNat) else .failure

/-- `should_play_sound` (R226). -/
def hostShouldPlaySound (s : State) : Bool := decide (0 < s.st.toNat)

/-- The result `tick_frame` gives the host: success or failure, no cause (R201). -/
def tickReply (s : State) : HostReply :=
  match s.report with
  | some .success => .success
  | _ => .failure

/-- A host operation: refused while a tick is in progress (R8, D29). -/
def hostStep (op : HostOp) (s : State) : Host.Outcome (HostReply × State) Fault Refusal :=
  if s.iter ≠ 0 then .refused .hostActionDuringTick
  else match op with
    | .initializeOp n => .next (hostInitialize n s)
    | .resetOp => .next (hostReset s)
    | .loadProgram image => .next (hostLoadProgram image s)
    | .setKeyState key pressed => .next (hostSetKeyState key pressed s)
    | .getPixel x y => .next (hostGetPixel x y s, s)
    | .getScreenWidth => .next (.size screenW, s)
    | .getScreenHeight => .next (.size screenH, s)
    | .shouldPlaySound => .next (.sound (hostShouldPlaySound s), s)
    | .tickFrame =>
      match Machine.tickFrame s with
      | .next t => .next (tickReply t, t)
      | .fault f => .fault f
      | .refused r => .refused r

end Sys2Proof.Machine
end

