-- ==== Sys2Proof/Safety.lean ====
section
/-!
DEFINITION. What claims use: the invariants of spec/10_state.md R41 and of the model's own fields, a run
without error (60_exceptions.md R205), and a tick as a sequence of steps (R210).
-/

namespace Sys2Proof.Machine

/-- The stack's invariant (R24, R41): the slots not in use, S[0] and those above sp, hold 0. The live slots
hold addresses a fetched `pc` can have. -/
def State.stackInv (s : State) : Prop :=
  (∀ k : Fin 16, k = 0 ∨ s.sp < k → s.stack[k.val] = 0) ∧ ∀ k : Fin 16, s.stack[k.val].toNat ≤ 0x1000

/-- The place in the tick (R30, R210, R212): below IPF; inside a tick no report is out, and the gate bit is
the one the last cycle's iteration set. -/
def State.tickInv (s : State) : Prop :=
  s.iter < s.cfg.ipf.val ∧ (s.iter ≠ 0 → s.report = none ∧ (s.vblank = true ↔ s.iter = 1))

/-- The invariant of every reachable state (R41): canonical memory, the stack, `pc` at most 0x10FE, the
place in the tick, and the sticky mark set whenever a failure is reported (R205). -/
structure State.Inv (s : State) : Prop where
  memCanonical : Memory.wf s.cfg s.mem = true
  stack : s.stackInv
  pcBound : s.pc.toNat ≤ 0x10FE
  tick : s.tickInv
  mark : ∀ e, s.report = some (.failure e) → s.errorSeen = true

/-- Every piece of hardware state holds its reset value (R40); the parameters are any. -/
structure State.AtReset (s : State) : Prop where
  registers : ∀ r : Reg, s.getV r = 0
  index : s.i = 0
  pc : s.pc = 0x200
  sp : s.sp = 0
  slots : ∀ k : Fin 16, s.stack[k.val] = 0
  timers : s.dt = 0 ∧ s.st = 0
  keysUp : ∀ k : Fin 16, s.keys[k.val] = false ∧ s.keysPrev[k.val] = false
  screen : ∀ y x, s.fb.lit y x = false
  vblank : s.vblank = false
  ir : s.ir = 0
  font : ∀ k : Fin 80, s.readByte (s.cfg.fontBase.val + k.val) = s.cfg.fontData[k.val]
  zeroes : ∀ a, a < s.cfg.fontBase.val ∨ s.cfg.fontBase.val + 80 ≤ a → s.readByte a = 0

/-- The parts of the state an instruction may write (the writer tables of R20 to R29). -/
inductive Part where
  | registers | index | pc | stack | delayTimer | soundTimer | screen | memory | draws
deriving DecidableEq, Repr

/-- What each instruction may write, besides taking an error (R20 to R29). `pc` stands here for a move
other than fetch's own advance (R23). -/
def partsWritten : Instr → List Part
  | .cls => [.screen, .pc]
  | .ret | .call _ => [.stack, .pc]
  | .jp _ | .jpV0 _ | .seImm _ _ | .sneImm _ _ | .seReg _ _ | .sneReg _ _ | .skp _ | .sknp _ | .wkr _ => [.pc]
  | .ldImm _ _ | .addImm _ _ | .ldReg _ _ | .orReg _ _ | .andReg _ _ | .xorReg _ _ | .addReg _ _ | .subReg _ _
  | .shr _ _ | .subn _ _ | .shl _ _ | .ldVxDt _ => [.registers]
  | .rnd _ _ => [.registers, .draws]
  | .ldI _ | .addI _ | .ldF _ => [.index]
  | .drw _ _ _ => [.screen, .registers, .pc]
  | .ldDtVx _ => [.delayTimer]
  | .ldStVx _ => [.soundTimer]
  | .ldB _ => [.memory]
  | .storeRegs _ => [.memory, .index]
  | .loadRegs _ => [.registers, .index]

/-- The registers an instruction may write: the tables of R20 and R21. -/
def writesReg : Instr → Reg → Bool
  | .ldImm x _, r | .addImm x _, r | .ldReg x _, r | .rnd x _, r | .ldVxDt x, r => r == x
  | .orReg x _, r | .andReg x _, r | .xorReg x _, r | .addReg x _, r | .subReg x _, r | .shr x _, r
  | .subn x _, r | .shl x _, r => r == x || r == vf
  | .drw _ _ _, r => r == vf
  | .loadRegs x, r => decide (r ≤ x)
  | .cls, _ | .ret, _ | .jp _, _ | .call _, _ | .seImm _ _, _ | .sneImm _ _, _ | .seReg _ _, _ | .sneReg _ _, _
  | .ldI _, _ | .jpV0 _, _ | .skp _, _ | .sknp _, _ | .wkr _, _ | .ldDtVx _, _ | .ldStVx _, _ | .addI _, _
  | .ldF _, _ | .ldB _, _ | .storeRegs _, _ => false

/-- How many bytes from I an instruction stores to (R50). -/
def storedLen : Instr → Nat
  | .ldB _ => 3
  | .storeRegs x => x.val + 1
  | .cls | .ret | .jp _ | .call _ | .seImm _ _ | .sneImm _ _ | .seReg _ _ | .sneReg _ _ | .ldImm _ _ | .addImm _ _
  | .ldReg _ _ | .orReg _ _ | .andReg _ _ | .xorReg _ _ | .addReg _ _ | .subReg _ _ | .shr _ _ | .subn _ _
  | .shl _ _ | .ldI _ | .jpV0 _ | .rnd _ _ | .drw _ _ _ | .skp _ | .sknp _ | .ldVxDt _ | .wkr _ | .ldDtVx _
  | .ldStVx _ | .addI _ | .ldF _ | .loadRegs _ => 0

/-- Whether the n-row sprite at I, placed at column x0, row y0, has a pixel of 1 at column xx, row yy of
the screen (R162): sprite row yy - y0, sprite column xx - x0, bit 7 the leftmost. -/
def State.spritePixel (s : State) (x0 y0 n yy xx : Nat) : Bool :=
  decide (y0 ≤ yy ∧ yy < y0 + n ∧ x0 ≤ xx ∧ xx < x0 + 8) && (s.readByte (s.atI (yy - y0))).getLsbD (7 - (xx - x0))

/-- The state in which the failing instruction had no effect of its own, the tick is over and has failed
with error e, and the mark is set (R202, R203, R205). -/
def State.failedWith (s : State) (e : ExecError) : State :=
  { s with iter := 0, report := some (.failure e), errorSeen := true }

/-- The fields of a word as numbers (R10, R74), said without the decoder's own extraction: `x`, bits 11 to 8. -/
def wordX (w : Word) : Reg := Fin.ofNat 16 (w.toNat / 256)

/-- `y`, bits 7 to 4. -/
def wordY (w : Word) : Reg := Fin.ofNat 16 (w.toNat / 16)

/-- `n`, bits 3 to 0. -/
def wordN (w : Word) : Fin 16 := Fin.ofNat 16 w.toNat

/-- `nn`, bits 7 to 0. -/
def wordNN (w : Word) : Byte := BitVec.ofNat 8 w.toNat

/-- `nnn`, bits 11 to 0. -/
def wordNNN (w : Word) : BitVec 12 := BitVec.ofNat 12 w.toNat

/-- The encoding bullet of an instruction's rule (R80 to R82): every word that matches `pattern` by `mask`
decodes to the instruction `f` reads from its fields, unless it is an alias encoding (it fails to match by
`canon`) and ALIAS_POLICY refuses those. -/
def WordsDecodeTo (pattern mask canon : Word) (f : Word → Instr) : Prop :=
  ∀ (p : AliasPolicy) (w : Word), w &&& mask = pattern →
    decodeWord p w = if w &&& canon = pattern ∨ p = .execute then .ok (f w) else .error (.aliasWord w)

/-- An answer with `f` applied to its next state. -/
def mapNext (f : State → State) : Result → Result
  | .next t => .next (f t)
  | .fault e => .fault e
  | .refused r => .refused r

/-- A run has gone without an execution error so far (R205). -/
def State.safe (s : State) : Prop := s.errorSeen = false

/-- At most `k` steps, ending with the step that ends the tick. -/
def runToReport : Nat → State → Result
  | 0, s => .next s
  | k + 1, s =>
    match step s with
    | .next t =>
      match t.report with
      | some _ => .next t
      | none => runToReport k t
    | .fault f => .fault f
    | .refused r => .refused r

end Sys2Proof.Machine
end

