-- ==== Sys2Proof/Certificates/Slice0/Obligations.lean ====
section
/-!
DEFINITION. The statements for the provers, each over the rules of spec/ its docstring names. `x`, `y`,
`nn`, `nnn`, `n` are an instruction's fields, `s` the state its meaning starts from (after fetch, so `pc` is
the instruction's address plus 2). A last clause `t = { s with … }` is the frame: nothing but the fields
named there differs, memory included.
-/

open Sys2Proof Sys2Proof.Machine

/-! ### Encoding -/

/-- R74, R75, R79, R83: no bit of an encoding is dropped or moved, under either ALIAS_POLICY. -/
def Obligations.EncodedInstructionDecodesToItself : Prop :=
  ∀ (p : AliasPolicy) (i : Instr), decodeWord p (encode i) = .ok i

/-- R80, R81: a decoded word matches the row of its instruction, and every bit of it but the don't-care
bits comes back on encoding. -/
def Obligations.DecodedWordReencodesUpToDontCareBits : Prop :=
  ∀ (w : Word) (i : Instr), decodeWord .execute w = .ok i →
    w &&& (rowOf i).mask = (rowOf i).pattern ∧ encode i = w &&& ~~~((rowOf i).canon &&& ~~~(rowOf i).mask)

/-- R79 (property P1): every word selects exactly one row of the map and decodes to an instruction of that
row, or selects none and is reported invalid. -/
def Obligations.EveryWordHasOneRowOrIsInvalid : Prop :=
  ∀ w : Word,
    (∃ i, decodeWord .execute w = .ok i ∧ opcodeMap.filter (fun r => r.selects w) = [rowOf i]) ∨
    (decodeWord .execute w = .error (.invalidWord w) ∧ opcodeMap.filter (fun r => r.selects w) = [])

/-- R84: the invalid words are exactly those of its table. -/
def Obligations.InvalidWordsAreThoseOfTheTable : Prop :=
  ∀ (p : AliasPolicy) (w : Word), decodeWord p w = .error (.invalidWord w) ↔
    (w.toNat / 4096 = 0 ∧ w.toNat % 256 ≠ 0xE0 ∧ w.toNat % 256 ≠ 0xEE) ∨
    (w.toNat / 4096 = 8 ∧ w.toNat % 16 ∈ [8, 9, 10, 11, 12, 13, 15]) ∨
    (w.toNat / 4096 = 0xE ∧ w.toNat % 256 ≠ 0x9E ∧ w.toNat % 256 ≠ 0xA1) ∨
    (w.toNat / 4096 = 0xF ∧ w.toNat % 256 ∉ [0x07, 0x0A, 0x15, 0x18, 0x1E, 0x29, 0x33, 0x55, 0x65])

/-- R82: a word that decodes under `execute` decodes the same under `invalid` if it is canonical, and is
refused as an alias if it is not. The choice between the two is the parameter of decision D12 (log 7). -/
def Obligations.AliasWordsFollowThePolicy : Prop :=
  ∀ (w : Word) (i : Instr), decodeWord .execute w = .ok i →
    decodeWord .invalid w =
      if w &&& (rowOf i).canon = (rowOf i).pattern then .ok i else .error (.aliasWord w)

/-- R80: words written out from the formats of R75 decode to the instructions they stand for. -/
def Obligations.SpecWordsDecode : Prop :=
  decodeTableWord 16 0x00EE = some .ret ∧ decodeTableWord 16 0x2ABC = some (.call 0xABC) ∧
  decodeTableWord 16 0x37F1 = some (.seImm 7 0xF1) ∧ decodeTableWord 16 0x8AB6 = some (.shr 10 11) ∧
  decodeTableWord 16 0xD12F = some (.drw 1 2 15) ∧ decodeTableWord 16 0xE5A1 = some (.sknp 5) ∧
  decodeTableWord 16 0xFC55 = some (.storeRegs 12) ∧ decodeTableWord 16 0x0000 = none

/-! ### Reset -/

/-- R40, R220, R225: called between ticks, `reset` and a successful `initialize` put every piece of state at
its reset value; `reset` keeps IPF, `initialize(n)` sets it; an n not above 0 changes nothing. That memory, the
key vectors and `ir` are zeroed too is the spec's decision D21; that no other operation changes IPF is its
decision D11 (log 4). -/
def Obligations.ResetAndInitializeGiveTheResetState : Prop :=
  (∀ s : State, s.iter = 0 → ∃ t, hostStep .resetOp s = .next (.success, t) ∧ t.AtReset ∧ t.cfg = s.cfg) ∧
  (∀ (n : Int) (s : State), s.iter = 0 → 0 < n → ∃ t, hostStep (.initializeOp n) s = .next (.success, t) ∧
    t.AtReset ∧ (t.cfg.ipf.val : Int) = n ∧ t.cfg = { s.cfg with ipf := t.cfg.ipf }) ∧
  (∀ (n : Int) (s : State), s.iter = 0 → n ≤ 0 → hostStep (.initializeOp n) s = .next (.failure, s)) ∧
  ∀ (op : HostOp) (s t : State) (r : HostReply), (∀ n, op ≠ .initializeOp n) →
    hostStep op s = .next (r, t) → t.cfg.ipf = s.cfg.ipf

/-- R40, R41: the state after reset, for every value of the parameters, meets the invariant. -/
def Obligations.ResetStateMeetsTheInvariant : Prop :=
  State.reset.Inv ∧ State.reset.AtReset ∧ ∀ c : Config, (State.initial c).Inv

/-- R41: every step keeps the invariant: memory canonical, S[0] and the slots above sp 0, `pc` at most
0x10FE, the place in the tick below IPF, the mark set when a failure is reported. -/
def Obligations.StepKeepsTheInvariant : Prop :=
  ∀ s t : State, s.Inv → step s = .next t → t.Inv

/-- R41, R228: every host operation between ticks keeps the invariant. -/
def Obligations.HostOperationsKeepTheInvariant : Prop :=
  ∀ (op : HostOp) (s t : State) (r : HostReply), s.Inv → hostStep op s = .next (r, t) → t.Inv

/-! ### The instruction cycle and the tick -/

/-- R205, R246: no state is stuck, and no step faults or refuses, whatever is in memory. -/
def Obligations.EveryStepAnswersANextState : Prop :=
  ∀ s : State, ∃ t, step s = .next t

/-- R70, R73: when the two bytes at `pc` decode to an instruction, the step is its meaning in the state
after fetch, with the start of the cycle before (timers on iteration 0, the gate bit, no report) and the
end of the cycle after. -/
def Obligations.StepRunsTheDecodedInstruction : Prop :=
  ∀ (s u : State) (i : Instr), s.pc.toNat ≤ 0xFFE →
    decodeBytes s.cfg.aliasPolicy [s.readByte s.pc.toNat, s.readByte (s.pc.toNat + 1)] = .ok (i, []) →
    exec i { s with
      ir := wordOfBytes (s.readByte s.pc.toNat) (s.readByte (s.pc.toNat + 1))
      pc := s.pc + 2
      vblank := decide (s.iter = 0)
      report := none
      dt := if s.iter = 0 then tickDown s.dt else s.dt
      st := if s.iter = 0 then tickDown s.st else s.st } = .next u →
    step s = .next u.endCycle

/-- R71, R72: fetch reads the word high byte first and advances `pc` by 2; above 0xFFE it raises
FetchOutOfRange(pc) (the spec's decision D5). -/
def Obligations.FetchIsBigEndianAndChecked : Prop :=
  ∀ s : State,
    (s.pc.toNat ≤ 0xFFE → ∃ t, s.fetch = .ok t ∧
      t.ir.toNat = (s.readByte s.pc.toNat).toNat * 256 + (s.readByte (s.pc.toNat + 1)).toNat ∧
      t.pc.toNat = s.pc.toNat + 2 ∧ t = { s with ir := t.ir, pc := t.pc }) ∧
    (0xFFE < s.pc.toNat → s.fetch = .error (.fetchOutOfRange s.pc))

/-- R72, R202, R203: a step whose fetch is out of range fails the tick; `pc`, `ir`, KP and all else are
unchanged but for what the start of the cycle did (the spec's decision D5). -/
def Obligations.FetchBeyondMemoryFailsTheTick : Prop :=
  ∀ s : State, 0xFFE < s.pc.toNat →
    step s = .next { s with
      vblank := decide (s.iter = 0)
      dt := if s.iter = 0 then s.dt - (if s.dt = 0 then 0 else 1) else s.dt
      st := if s.iter = 0 then s.st - (if s.st = 0 then 0 else 1) else s.st
      iter := 0
      report := some (.failure (.fetchOutOfRange s.pc))
      errorSeen := true }

/-- R73, R202, R203: a step whose word does not decode fails the tick in the state after fetch, nothing else
changed but for what the start of the cycle did. -/
def Obligations.InvalidWordFailsTheTick : Prop :=
  ∀ (s : State) (e : DecodeError), s.pc.toNat ≤ 0xFFE →
    decodeWord s.cfg.aliasPolicy (wordOfBytes (s.readByte s.pc.toNat) (s.readByte (s.pc.toNat + 1))) = .error e →
    ∃ w : Word, w.toNat = (s.readByte s.pc.toNat).toNat * 256 + (s.readByte (s.pc.toNat + 1)).toNat ∧
      step s = .next { s with
        ir := w
        pc := s.pc + 2
        vblank := decide (s.iter = 0)
        dt := if s.iter = 0 then s.dt - (if s.dt = 0 then 0 else 1) else s.dt
        st := if s.iter = 0 then s.st - (if s.st = 0 then 0 else 1) else s.st
        iter := 0
        report := some (.failure (.invalidInstruction w))
        errorSeen := true }

/-- R203: whichever instruction raises an error, it has no effect of its own: `pc`, `ir`, `vblank` and all
else stay as fetch left them. -/
def Obligations.ErrorsArePrecise : Prop :=
  ∀ (i : Instr) (s t : State) (e : ExecError), s.report = none →
    exec i s = .next t → t.report = some (.failure e) → t = s.failedWith e

/-- R200: which instruction raises which error, and in which states. E3 to E6 are the spec's decisions D4 and
D6 to D8. -/
def Obligations.OnlyTheTabulatedErrorsAreRaised : Prop :=
  ∀ (i : Instr) (s t : State) (e : ExecError), s.report = none →
    exec i s = .next t → t.report = some (.failure e) →
    (i = .ret ∧ e = .stackUnderflow ∧ s.sp = 0) ∨
    (∃ nnn, i = .call nnn ∧ e = .stackOverflow ∧ s.sp = 15) ∨
    (∃ x, (i = .skp x ∨ i = .sknp x ∨ i = .wkr x) ∧ e = .keyIndexOutOfRange (s.getV x) ∧ 15 < (s.getV x).toNat) ∨
    (∃ len, ((∃ x, i = .ldB x ∧ len = 3) ∨ (∃ x, (i = .storeRegs x ∨ i = .loadRegs x) ∧ len = x.val + 1) ∨
        (∃ x y n, i = .drw x y n ∧ s.vblank = true ∧ 0 < n.val ∧ len = n.val)) ∧
      e = .addressOutOfRange (max s.i.toNat 0x1000) ∧ 0xFFF < s.i.toNat + len - 1)

/-- R210, R202: an error ends the tick at once; otherwise the next iteration follows until IPF have run,
and then the tick succeeds. -/
def Obligations.TickHasIpfIterationsOrFails : Prop :=
  ∀ s t : State, step s = .next t →
    ((∃ e, t.report = some (.failure e)) ∧ t.iter = 0) ∨
    (s.iter + 1 < s.cfg.ipf.val ∧ t.report = none ∧ t.iter = s.iter + 1) ∨
    (s.cfg.ipf.val ≤ s.iter + 1 ∧ t.report = some .success ∧ t.iter = 0)

/-- R212: `vblank` is true after a step exactly when the step was iteration 0, whatever ran. -/
def Obligations.VblankIsIterationZero : Prop :=
  ∀ s t : State, step s = .next t → (t.vblank = true ↔ s.iter = 0)

/-- R211: each timer goes down by one, held at 0, on iteration 0 of a tick and on no other, unless the
instruction of the cycle is the one that writes it. -/
def Obligations.TimersGoDownOncePerTick : Prop :=
  ∀ s t : State, step s = .next t →
    ((∀ x, decodeWord s.cfg.aliasPolicy s.fetchedWord ≠ .ok (.ldDtVx x)) →
      t.dt.toNat = if s.iter = 0 then s.dt.toNat - 1 else s.dt.toNat) ∧
    ((∀ x, decodeWord s.cfg.aliasPolicy s.fetchedWord ≠ .ok (.ldStVx x)) →
      t.st.toNat = if s.iter = 0 then s.st.toNat - 1 else s.st.toNat)

/-- R213: the snapshot takes all of K when a tick completes successfully, and keeps its old value
otherwise; no step changes K. -/
def Obligations.SnapshotIsTakenOnSuccessOnly : Prop :=
  ∀ s t : State, step s = .next t →
    t.keysPrev = (if t.report = some .success then s.keys else s.keysPrev) ∧ t.keys = s.keys

/-- R205: the mark is set by a failure and never cleared. (The mark is the model's bookkeeping, log 2.) -/
def Obligations.ErrorMarkIsSticky : Prop :=
  ∀ s t : State, step s = .next t →
    (t.errorSeen = true ↔ s.errorSeen = true ∨ ∃ e, t.report = some (.failure e))

/-- R210, R227, R30: `tick_frame` as the spec writes it, a timer phase and a loop of IPF iterations, is what
stepping by instruction cycle until a report does. -/
def Obligations.TickFrameIsItsSteps : Prop :=
  ∀ s : State, s.iter = 0 → runToReport s.cfg.ipf.val s = tickFrame s

/-! ### What instructions leave alone -/

/-- R20, R21: when an instruction answers a next state, every register outside the writer tables keeps its
value; VF is written by its listed writers only. -/
def Obligations.RegistersOutsideTheWriterTableKeepTheirValue : Prop :=
  ∀ (i : Instr) (s t : State) (r : Reg), exec i s = .next t → writesReg i r = false → t.getV r = s.getV r

/-- R22 to R30: I, `pc`, the stack, the timers, the screen and the draws change only by the instructions
the writer tables list; the key vectors, `vblank`, `ir` and the parameters change by none. -/
def Obligations.OtherStateChangesOnlyByItsWriters : Prop :=
  ∀ (i : Instr) (s t : State), exec i s = .next t →
    (Part.index ∉ partsWritten i → t.i = s.i) ∧
    (Part.pc ∉ partsWritten i → t.pc = s.pc) ∧
    (Part.stack ∉ partsWritten i → t.sp = s.sp ∧ t.stack = s.stack) ∧
    (Part.delayTimer ∉ partsWritten i → t.dt = s.dt) ∧
    (Part.soundTimer ∉ partsWritten i → t.st = s.st) ∧
    (Part.screen ∉ partsWritten i ∨ s.vblank = false → t.fb = s.fb) ∧
    (Part.draws ∉ partsWritten i → t.fresh = s.fresh) ∧
    t.keys = s.keys ∧ t.keysPrev = s.keysPrev ∧ t.vblank = s.vblank ∧ t.ir = s.ir ∧ t.cfg = s.cfg

/-- R50: every byte of memory keeps its value but the `storedLen i` bytes from I that `FX33` and `FX55`
store to; for every other instruction `storedLen i` is 0 and every byte keeps its value. -/
def Obligations.MemoryOutsideTheStoredBytesIsUnchanged : Prop :=
  ∀ (i : Instr) (s t : State) (a : Nat), exec i s = .next t →
    ¬ (s.atI 0 ≤ a ∧ a < s.atI 0 + storedLen i) → t.readByte a = s.readByte a

/-- R21, R25, R26, R28, R29 (who reads what): an instruction that is not listed as a reader of a piece of
state acts the same whatever that piece holds, and leaves it as it was. `vblank` is read by `00E0` and
`DXYN`, KP by `FX0A`, K by `EX9E`, `EXA1` and `FX0A`, DT by `FX07` (and written by `FX15`), ST by none (and
written by `FX18`), `ir` by no meaning beyond its decoded fields. -/
def Obligations.InstructionsReadOnlyWhatTheirRulesName : Prop :=
  ∀ (i : Instr) (s : State),
    (∀ b, i ≠ .cls → (∀ x y n, i ≠ .drw x y n) →
      exec i { s with vblank := b } = mapNext (fun t => { t with vblank := b }) (exec i s)) ∧
    (∀ k, (∀ x, i ≠ .wkr x) →
      exec i { s with keysPrev := k } = mapNext (fun t => { t with keysPrev := k }) (exec i s)) ∧
    (∀ k, (∀ x, i ≠ .skp x ∧ i ≠ .sknp x ∧ i ≠ .wkr x) →
      exec i { s with keys := k } = mapNext (fun t => { t with keys := k }) (exec i s)) ∧
    (∀ b, (∀ x, i ≠ .ldVxDt x ∧ i ≠ .ldDtVx x) →
      exec i { s with dt := b } = mapNext (fun t => { t with dt := b }) (exec i s)) ∧
    (∀ b, (∀ x, i ≠ .ldStVx x) →
      exec i { s with st := b } = mapNext (fun t => { t with st := b }) (exec i s)) ∧
    ∀ w, exec i { s with ir := w } = mapNext (fun t => { t with ir := w }) (exec i s)

/-! ### Control transfer -/

/-- R104, R105: a jump's target is used as it is; `BNNN` adds V[0], and the sum does not wrap. -/
def Obligations.JumpsSetPcUnmasked : Prop :=
  WordsDecodeTo 0x1000 0xF000 0xF000 (fun w => .jp (wordNNN w)) ∧
  WordsDecodeTo 0xB000 0xF000 0xF000 (fun w => .jpV0 (wordNNN w)) ∧
  ∀ (nnn : BitVec 12) (s : State),
    (∃ t, exec (.jp nnn) s = .next t ∧ t.pc.toNat = nnn.toNat ∧ t = { s with pc := t.pc }) ∧
    ∃ t, exec (.jpV0 nnn) s = .next t ∧ t.pc.toNat = nnn.toNat + (s.getV 0).toNat ∧ t = { s with pc := t.pc }

/-- R102: a call with sp below 15 pushes the advanced `pc` into slot sp + 1 and jumps; with sp = 15 it
raises StackOverflow and changes nothing (the spec's decision D6). -/
def Obligations.CallPushesOrOverflows : Prop :=
  WordsDecodeTo 0x2000 0xF000 0xF000 (fun w => .call (wordNNN w)) ∧
  ∀ (nnn : BitVec 12) (s : State),
    (s.sp.val < 15 → ∃ t, exec (.call nnn) s = .next t ∧ t.sp.val = s.sp.val + 1 ∧
      (∀ k : Fin 16, t.stack[k.val] = if k.val = s.sp.val + 1 then s.pc else s.stack[k.val]) ∧
      t.pc.toNat = nnn.toNat ∧ t = { s with sp := t.sp, stack := t.stack, pc := t.pc }) ∧
    (s.sp.val = 15 → exec (.call nnn) s = .next (s.failedWith .stackOverflow))

/-- R101: a return with sp above 0 pops into `pc` and clears the slot; with sp = 0 it raises StackUnderflow
and changes nothing (the spec's decision D7). -/
def Obligations.ReturnPopsOrUnderflows : Prop :=
  WordsDecodeTo 0x00EE 0xF0FF 0xFFFF (fun _ => .ret) ∧
  ∀ s : State,
    (0 < s.sp.val → ∃ t, exec .ret s = .next t ∧ t.pc = s.stack[s.sp.val] ∧ t.sp.val + 1 = s.sp.val ∧
      (∀ k : Fin 16, t.stack[k.val] = if k = s.sp then 0 else s.stack[k.val]) ∧
      t = { s with sp := t.sp, stack := t.stack, pc := t.pc }) ∧
    (s.sp.val = 0 → exec .ret s = .next (s.failedWith .stackUnderflow))

/-- R101, R102 (scenario S3): a call and then a return, wherever the return stands, come back to the
instruction after the call with the stack as it was. The premise on the slots is the stack's invariant. -/
def Obligations.CallThenReturnResumes : Prop :=
  ∀ (nnn : BitVec 12) (s : State) (w a : Word), s.stackInv → s.sp.val < 15 →
    ∃ t u, exec (.call nnn) s = .next t ∧ exec .ret { t with ir := w, pc := a } = .next u ∧
      u.pc = s.pc ∧ u.sp = s.sp ∧ u.stack = s.stack

/-- R103, R106 to R109: each conditional skip adds 2 to the advanced `pc` when its condition holds, and
changes nothing else. -/
def Obligations.SkipsAddTwoWhenTheirConditionHolds : Prop :=
  WordsDecodeTo 0x3000 0xF000 0xF000 (fun w => .seImm (wordX w) (wordNN w)) ∧
  WordsDecodeTo 0x4000 0xF000 0xF000 (fun w => .sneImm (wordX w) (wordNN w)) ∧
  WordsDecodeTo 0x5000 0xF000 0xF00F (fun w => .seReg (wordX w) (wordY w)) ∧
  WordsDecodeTo 0x9000 0xF000 0xF00F (fun w => .sneReg (wordX w) (wordY w)) ∧
  ∀ (x y : Reg) (nn : Byte) (s : State),
    exec (.seImm x nn) s = .next { s with pc := if s.getV x = nn then s.pc + 2 else s.pc } ∧
    exec (.sneImm x nn) s = .next { s with pc := if s.getV x = nn then s.pc else s.pc + 2 } ∧
    exec (.seReg x y) s = .next { s with pc := if s.getV x = s.getV y then s.pc + 2 else s.pc } ∧
    exec (.sneReg x y) s = .next { s with pc := if s.getV x = s.getV y then s.pc else s.pc + 2 }

/-! ### Load and ALU -/

/-- R123, R124, R125: loads and the immediate add, which wraps and writes no flag. -/
def Obligations.LoadsAndImmediateAddWriteVxOnly : Prop :=
  WordsDecodeTo 0x6000 0xF000 0xF000 (fun w => .ldImm (wordX w) (wordNN w)) ∧
  WordsDecodeTo 0x7000 0xF000 0xF000 (fun w => .addImm (wordX w) (wordNN w)) ∧
  WordsDecodeTo 0x8000 0xF00F 0xF00F (fun w => .ldReg (wordX w) (wordY w)) ∧
  ∀ (x y : Reg) (nn : Byte) (s : State),
    (∃ t, exec (.ldImm x nn) s = .next t ∧
      (∀ r, t.getV r = if r = x then nn else s.getV r) ∧ t = { s with v := t.v }) ∧
    (∃ t, exec (.addImm x nn) s = .next t ∧
      (∀ r, (t.getV r).toNat = if r = x then ((s.getV x).toNat + nn.toNat) % 256 else (s.getV r).toNat) ∧
      t = { s with v := t.v }) ∧
    ∃ t, exec (.ldReg x y) s = .next t ∧
      (∀ r, t.getV r = if r = x then s.getV y else s.getV r) ∧ t = { s with v := t.v }

/-- R126, R127, R128, R121: OR, AND and XOR write V[x], then VF = 0 (also when x = 15). -/
def Obligations.BitwiseOperationsResetVf : Prop :=
  WordsDecodeTo 0x8001 0xF00F 0xF00F (fun w => .orReg (wordX w) (wordY w)) ∧
  WordsDecodeTo 0x8002 0xF00F 0xF00F (fun w => .andReg (wordX w) (wordY w)) ∧
  WordsDecodeTo 0x8003 0xF00F 0xF00F (fun w => .xorReg (wordX w) (wordY w)) ∧
  ∀ (x y : Reg) (s : State),
    (∃ t, exec (.orReg x y) s = .next t ∧ t = { s with v := t.v } ∧
      ∀ r, t.getV r = if r = 15 then 0 else if r = x then s.getV x ||| s.getV y else s.getV r) ∧
    (∃ t, exec (.andReg x y) s = .next t ∧ t = { s with v := t.v } ∧
      ∀ r, t.getV r = if r = 15 then 0 else if r = x then s.getV x &&& s.getV y else s.getV r) ∧
    ∃ t, exec (.xorReg x y) s = .next t ∧ t = { s with v := t.v } ∧
      ∀ r, t.getV r = if r = 15 then 0 else if r = x then s.getV x ^^^ s.getV y else s.getV r

/-- R129, R121: the sum modulo 256 in V[x], then the carry in VF. The order for x = 15 is the spec's decision
D9. -/
def Obligations.AddWritesSumThenCarry : Prop :=
  WordsDecodeTo 0x8004 0xF00F 0xF00F (fun w => .addReg (wordX w) (wordY w)) ∧
  ∀ (x y : Reg) (s : State), ∃ t, exec (.addReg x y) s = .next t ∧ t = { s with v := t.v } ∧
    ∀ r, (t.getV r).toNat =
      if r = 15 then (if 255 < (s.getV x).toNat + (s.getV y).toNat then 1 else 0)
      else if r = x then ((s.getV x).toNat + (s.getV y).toNat) % 256 else (s.getV r).toNat

/-- R130, R132, R121: the difference modulo 256 in V[x], then VF = 1 iff minuend ≥ subtrahend; `8XY5` takes
V[x] − V[y], `8XY7` takes V[y] − V[x]. The order for x = 15 is the spec's decision D9. -/
def Obligations.SubtractionsWriteDifferenceThenNoBorrow : Prop :=
  WordsDecodeTo 0x8005 0xF00F 0xF00F (fun w => .subReg (wordX w) (wordY w)) ∧
  WordsDecodeTo 0x8007 0xF00F 0xF00F (fun w => .subn (wordX w) (wordY w)) ∧
  ∀ (x y : Reg) (s : State),
    (∃ t, exec (.subReg x y) s = .next t ∧ t = { s with v := t.v } ∧
      ∀ r, ((t.getV r).toNat : Int) =
        if r = 15 then (if (s.getV y).toNat ≤ (s.getV x).toNat then 1 else 0)
        else if r = x then (((s.getV x).toNat : Int) - (s.getV y).toNat) % 256 else (s.getV r).toNat) ∧
    ∃ t, exec (.subn x y) s = .next t ∧ t = { s with v := t.v } ∧
      ∀ r, ((t.getV r).toNat : Int) =
        if r = 15 then (if (s.getV x).toNat ≤ (s.getV y).toNat then 1 else 0)
        else if r = x then (((s.getV y).toNat : Int) - (s.getV x).toNat) % 256 else (s.getV r).toNat

/-- R131, R133, R121: the shifts take V[y], write V[x], then the bit shifted out in VF. The order for x = 15 is the
spec's decision D9. -/
def Obligations.ShiftsMoveVyIntoVx : Prop :=
  WordsDecodeTo 0x8006 0xF00F 0xF00F (fun w => .shr (wordX w) (wordY w)) ∧
  WordsDecodeTo 0x800E 0xF00F 0xF00F (fun w => .shl (wordX w) (wordY w)) ∧
  ∀ (x y : Reg) (s : State),
    (∃ t, exec (.shr x y) s = .next t ∧ t = { s with v := t.v } ∧
      ∀ r, (t.getV r).toNat =
        if r = 15 then (s.getV y).toNat % 2 else if r = x then (s.getV y).toNat / 2 else (s.getV r).toNat) ∧
    ∃ t, exec (.shl x y) s = .next t ∧ t = { s with v := t.v } ∧
      ∀ r, (t.getV r).toNat =
        if r = 15 then (s.getV y).toNat / 128
        else if r = x then (s.getV y).toNat * 2 % 256 else (s.getV r).toNat

/-- R134: V[x] gets some byte AND nn, so no bit outside nn; one draw is used up; nothing else changes. The
byte is a free value (log 3): the statement holds whatever it is. -/
def Obligations.RandomByteIsMasked : Prop :=
  WordsDecodeTo 0xC000 0xF000 0xF000 (fun w => .rnd (wordX w) (wordNN w)) ∧
  ∀ (x : Reg) (nn : Byte) (s : State), ∃ t b, exec (.rnd x nn) s = .next t ∧
    (∀ r, t.getV r = if r = x then b &&& nn else s.getV r) ∧ t.getV x &&& ~~~nn = 0 ∧
    t.fresh = s.fresh + 1 ∧ t = { s with v := t.v, fresh := t.fresh }

/-! ### Index register and memory transfer -/

/-- R140, R141, R142: `ANNN` zero-extends, `FX1E` adds modulo 65536 with no flag, `FX29` gives the glyph
address of the low nibble. The wrap of I is the spec's decision D10. -/
def Obligations.IndexInstructionsSetI : Prop :=
  WordsDecodeTo 0xA000 0xF000 0xF000 (fun w => .ldI (wordNNN w)) ∧
  WordsDecodeTo 0xF01E 0xF0FF 0xF0FF (fun w => .addI (wordX w)) ∧
  WordsDecodeTo 0xF029 0xF0FF 0xF0FF (fun w => .ldF (wordX w)) ∧
  ∀ (nnn : BitVec 12) (x : Reg) (s : State),
    (∃ t, exec (.ldI nnn) s = .next t ∧ t.i.toNat = nnn.toNat ∧ t = { s with i := t.i }) ∧
    (∃ t, exec (.addI x) s = .next t ∧ t.i.toNat = (s.i.toNat + (s.getV x).toNat) % 65536 ∧
      t = { s with i := t.i }) ∧
    ∃ t, exec (.ldF x) s = .next t ∧ t.i.toNat = s.cfg.fontBase.val + 5 * ((s.getV x).toNat % 16) ∧
      t = { s with i := t.i }

/-- R143: the three decimal digits of V[x] go to I, I + 1, I + 2, most significant first, and nothing else
changes; when I is above 0xFFD it raises AddressOutOfRange and writes nothing (the spec's decision D4). -/
def Obligations.DecimalDigitsAreStored : Prop :=
  WordsDecodeTo 0xF033 0xF0FF 0xF0FF (fun w => .ldB (wordX w)) ∧
  ∀ (x : Reg) (s : State),
    (s.i.toNat ≤ 0xFFD → Memory.wf s.cfg s.mem = true → ∃ t, exec (.ldB x) s = .next t ∧
      (∀ a, (t.readByte a).toNat =
        if a = s.i.toNat then (s.getV x).toNat / 100
        else if a = s.i.toNat + 1 then (s.getV x).toNat / 10 % 10
        else if a = s.i.toNat + 2 then (s.getV x).toNat % 10
        else (s.readByte a).toNat) ∧
      t = { s with mem := t.mem }) ∧
    (0xFFD < s.i.toNat →
      exec (.ldB x) s = .next (s.failedWith (.addressOutOfRange (max s.i.toNat 0x1000))))

/-- R144: V[0] to V[x] go to I + 0 to I + x, then I is advanced by x + 1; out of range it raises
AddressOutOfRange, writes nothing and leaves I (the spec's decision D4). -/
def Obligations.StoreRegistersFillsMemory : Prop :=
  WordsDecodeTo 0xF055 0xF0FF 0xF0FF (fun w => .storeRegs (wordX w)) ∧
  ∀ (x : Reg) (s : State),
    (s.i.toNat + x.val ≤ 0xFFF → Memory.wf s.cfg s.mem = true → ∃ t, exec (.storeRegs x) s = .next t ∧
      (∀ k : Reg, k ≤ x → t.readByte (s.i.toNat + k.val) = s.getV k) ∧
      (∀ a, a < s.i.toNat ∨ s.i.toNat + x.val < a → t.readByte a = s.readByte a) ∧
      t.i.toNat = s.i.toNat + x.val + 1 ∧ t = { s with mem := t.mem, i := t.i }) ∧
    (0xFFF < s.i.toNat + x.val →
      exec (.storeRegs x) s = .next (s.failedWith (.addressOutOfRange (max s.i.toNat 0x1000))))

/-- R145: V[0] to V[x] are read from I + 0 to I + x, the registers above x keep their values, then I is
advanced by x + 1; out of range it raises AddressOutOfRange and changes no register (the spec's decision
D4). -/
def Obligations.LoadRegistersReadsMemory : Prop :=
  WordsDecodeTo 0xF065 0xF0FF 0xF0FF (fun w => .loadRegs (wordX w)) ∧
  ∀ (x : Reg) (s : State),
    (s.i.toNat + x.val ≤ 0xFFF → ∃ t, exec (.loadRegs x) s = .next t ∧
      (∀ k : Reg, t.getV k = if k ≤ x then s.readByte (s.i.toNat + k.val) else s.getV k) ∧
      t.i.toNat = s.i.toNat + x.val + 1 ∧ t = { s with v := t.v, i := t.i }) ∧
    (0xFFF < s.i.toNat + x.val →
      exec (.loadRegs x) s = .next (s.failedWith (.addressOutOfRange (max s.i.toNat 0x1000))))

/-- R147: `FX55`, then `FX65` with the same X and with I set back, restores V[0] to V[x] whatever the
registers held in between, and ends at the same I; without setting I back it reads the bytes that follow
the stored block. -/
def Obligations.StoreThenLoadRestoresRegisters : Prop :=
  ∀ (x : Reg) (s : State) (v' : Vector Byte 16), s.i.toNat + x.val ≤ 0xFFF → Memory.wf s.cfg s.mem = true →
    ∃ t u, exec (.storeRegs x) s = .next t ∧ exec (.loadRegs x) { t with i := s.i, v := v' } = .next u ∧
      (∀ k : Reg, k ≤ x → u.getV k = s.getV k) ∧ u.i = t.i ∧
      (s.i.toNat + 2 * x.val + 1 ≤ 0xFFF → ∃ w, exec (.loadRegs x) t = .next w ∧
        ∀ k : Reg, k ≤ x → w.getV k = s.readByte (s.i.toNat + x.val + 1 + k.val))

/-- R58: a fetch from a block that `FX55` or `FX33` has just stored reads the bytes stored. -/
def Obligations.StoredCodeIsFetched : Prop :=
  ∀ (x : Reg) (s : State), Memory.wf s.cfg s.mem = true →
    (∀ k : Fin 15, k.val + 1 ≤ x.val → s.i.toNat + x.val ≤ 0xFFF → ∃ t, exec (.storeRegs x) s = .next t ∧
      ∃ f, State.fetch { t with pc := s.i + BitVec.ofNat 16 k.val } = .ok f ∧
        f.ir.toNat = (s.getV k.castSucc).toNat * 256 + (s.getV k.succ).toNat) ∧
    (s.i.toNat ≤ 0xFFD → ∃ t, exec (.ldB x) s = .next t ∧
      ∃ f, State.fetch { t with pc := s.i } = .ok f ∧
        f.ir.toNat = (s.getV x).toNat / 100 * 256 + (s.getV x).toNat / 10 % 10)

/-! ### Screen -/

/-- R160, R164: a `00E0` or `DXYN` fetched on an iteration other than 0 raises nothing, and after the step
`pc` is at its own word again and the screen, the registers, I and memory are as before. -/
def Obligations.GatedScreenInstructionsRetry : Prop :=
  ∀ (s : State) (i : Instr), s.pc.toNat ≤ 0xFFE → s.iter ≠ 0 →
    decodeWord s.cfg.aliasPolicy s.fetchedWord = .ok i → (i = .cls ∨ ∃ x y n, i = .drw x y n) →
    ∃ t, step s = .next t ∧ t.pc = s.pc ∧ t.ir = s.fetchedWord ∧ t.fb = s.fb ∧ t.v = s.v ∧ t.i = s.i ∧ t.mem = s.mem ∧
      t.stack = s.stack ∧ t.sp = s.sp ∧ t.dt = s.dt ∧ t.st = s.st ∧ t.keys = s.keys ∧ t.vblank = false ∧
      ∀ e, t.report ≠ some (.failure e)

/-- R161: with the gate open, `00E0` puts every pixel out and changes nothing else; with it closed, it moves
`pc` back to its own word and changes nothing else. -/
def Obligations.ClearPutsEveryPixelOut : Prop :=
  WordsDecodeTo 0x00E0 0xF0FF 0xFFFF (fun _ => .cls) ∧
  ∀ s : State,
    (s.vblank = true → ∃ t, exec .cls s = .next t ∧
      (∀ yy xx, t.fb.lit yy xx = false) ∧ t = { s with fb := t.fb }) ∧
    (s.vblank = false → exec .cls s = .next { s with pc := s.pc - 2 })

/-- R162, R163: with the gate open and the rows in memory, `DXYN` turns over exactly the pixels where the
sprite, placed at (V[x] mod 64, V[y] mod 32), has a 1 and is on the screen, and VF = 1 iff one of them was
lit; n = 0 draws nothing and needs no memory. Out of range it raises AddressOutOfRange and changes nothing
(the spec's decision D4); with the gate closed, whatever n and I, it moves `pc` back to its own word and
changes nothing else. Bit 7 leftmost is the spec's general knowledge (D3, log 8). -/
def Obligations.DrawTurnsOverTheSpritePixels : Prop :=
  WordsDecodeTo 0xD000 0xF000 0xF000 (fun w => .drw (wordX w) (wordY w) (wordN w)) ∧
  ∀ (x y : Reg) (n : Fin 16) (s : State),
    (s.vblank = true → n.val = 0 ∨ s.i.toNat + n.val ≤ 0x1000 → ∃ t, exec (.drw x y n) s = .next t ∧
      (∀ yy xx, yy < 32 → xx < 64 → t.fb.lit yy xx =
        (s.fb.lit yy xx ^^ s.spritePixel ((s.getV x).toNat % 64) ((s.getV y).toNat % 32) n.val yy xx)) ∧
      (∀ r, r ≠ 15 → t.getV r = s.getV r) ∧
      (t.getV 15 = 0 ∨ t.getV 15 = 1) ∧
      (t.getV 15 = 1 ↔ ∃ yy xx, yy < 32 ∧ xx < 64 ∧ s.fb.lit yy xx = true ∧
        s.spritePixel ((s.getV x).toNat % 64) ((s.getV y).toNat % 32) n.val yy xx = true) ∧
      t = { s with fb := t.fb, v := t.v }) ∧
    (s.vblank = true → 0 < n.val → 0xFFF < s.i.toNat + n.val - 1 →
      exec (.drw x y n) s = .next (s.failedWith (.addressOutOfRange (max s.i.toNat 0x1000)))) ∧
    (s.vblank = false → exec (.drw x y n) s = .next { s with pc := s.pc - 2 })

/-- R163 (corner case): the same sprite drawn twice at the same place restores the screen. The coordinates
are not in VF, which the first draw overwrites. -/
def Obligations.DrawingTwiceRestoresTheScreen : Prop :=
  ∀ (x y : Reg) (n : Fin 16) (s : State), s.vblank = true → x ≠ 15 → y ≠ 15 →
    n.val = 0 ∨ s.i.toNat + n.val ≤ 0x1000 →
    ∃ t u, exec (.drw x y n) s = .next t ∧ exec (.drw x y n) t = .next u ∧ u.fb = s.fb

/-! ### Keys and timers -/

/-- R170, R171, R172: `EX9E` and `EXA1` skip by the current state of the key V[x] names; a V[x] above 15
raises KeyIndexOutOfRange and changes nothing (the spec's decision D8). -/
def Obligations.KeySkipsReadTheCurrentKeys : Prop :=
  WordsDecodeTo 0xE09E 0xF0FF 0xF0FF (fun w => .skp (wordX w)) ∧
  WordsDecodeTo 0xE0A1 0xF0FF 0xF0FF (fun w => .sknp (wordX w)) ∧
  ∀ (x : Reg) (s : State),
    (∀ k : Fin 16, (s.getV x).toNat = k.val →
      exec (.skp x) s = .next { s with pc := if s.keys[k.val] = true then s.pc + 2 else s.pc } ∧
      exec (.sknp x) s = .next { s with pc := if s.keys[k.val] = true then s.pc else s.pc + 2 }) ∧
    (15 < (s.getV x).toNat →
      exec (.skp x) s = .next (s.failedWith (.keyIndexOutOfRange (s.getV x))) ∧
      exec (.sknp x) s = .next (s.failedWith (.keyIndexOutOfRange (s.getV x))))

/-- R173: `FX0A` goes on, changing nothing, when the key V[x] names was pressed in the snapshot and is up
now; otherwise it moves `pc` back to its own word and changes nothing else; a V[x] above 15 raises
KeyIndexOutOfRange and changes nothing (the spec's decision D8). -/
def Obligations.WaitGoesOnAtTheReleaseEdge : Prop :=
  WordsDecodeTo 0xF00A 0xF0FF 0xF0FF (fun w => .wkr (wordX w)) ∧
  ∀ (x : Reg) (s : State),
    (∀ k : Fin 16, (s.getV x).toNat = k.val →
      (s.keysPrev[k.val] = true → s.keys[k.val] = false → exec (.wkr x) s = .next s) ∧
      (s.keysPrev[k.val] = false ∨ s.keys[k.val] = true → exec (.wkr x) s = .next { s with pc := s.pc - 2 })) ∧
    (15 < (s.getV x).toNat → exec (.wkr x) s = .next (s.failedWith (.keyIndexOutOfRange (s.getV x))))

/-- R174, R175, R176: the timers are read and written as they are. -/
def Obligations.TimerInstructionsMoveTheirByte : Prop :=
  WordsDecodeTo 0xF007 0xF0FF 0xF0FF (fun w => .ldVxDt (wordX w)) ∧
  WordsDecodeTo 0xF015 0xF0FF 0xF0FF (fun w => .ldDtVx (wordX w)) ∧
  WordsDecodeTo 0xF018 0xF0FF 0xF0FF (fun w => .ldStVx (wordX w)) ∧
  ∀ (x : Reg) (s : State),
    (∃ t, exec (.ldVxDt x) s = .next t ∧
      (∀ r, t.getV r = if r = x then s.dt else s.getV r) ∧ t = { s with v := t.v }) ∧
    (∃ t, exec (.ldDtVx x) s = .next t ∧ t.dt = s.getV x ∧ t = { s with dt := t.dt }) ∧
    ∃ t, exec (.ldStVx x) s = .next t ∧ t.st = s.getV x ∧ t = { s with st := t.st }

/-! ### The host -/

/-- R221: `load_program`, called between ticks, copies the bytes to 0x200 upward until the stream or memory
ends (the bound 3584 is the spec's decision D16), and changes nothing else of the hardware; its result is a
free value (log 10). -/
def Obligations.LoadProgramCopiesTheImage : Prop :=
  ∀ (image : List Byte) (s : State), s.iter = 0 → Memory.wf s.cfg s.mem = true →
    ∃ r t, hostStep (.loadProgram image) s = .next (r, t) ∧ (r = .success ∨ r = .failure) ∧
      (∀ a, t.readByte a =
        if 0x200 ≤ a ∧ a < 0x200 + min image.length 3584 then image[a - 0x200]?.getD 0 else s.readByte a) ∧
      t = { s with mem := t.mem, fresh := t.fresh }

/-- R222, R223, R224, R226: called between ticks, `set_key_state` sets the key of its number and nothing else,
`get_pixel` and `should_play_sound` read and change nothing, the screen sizes are constants, and out-of-range
arguments fail and change nothing. -/
def Obligations.KeyPixelAndSoundOperations : Prop :=
  ∀ s : State, s.iter = 0 →
    (∀ (key : Nat) (pressed : Bool),
      (key ≤ 15 → ∃ t, hostStep (.setKeyState key pressed) s = .next (.success, t) ∧
        (∀ k : Fin 16, t.keys[k.val] = if k.val = key then pressed else s.keys[k.val]) ∧
        t = { s with keys := t.keys }) ∧
      (15 < key → hostStep (.setKeyState key pressed) s = .next (.failure, s))) ∧
    (∀ (xx : Fin 64) (yy : Fin 32),
      hostStep (.getPixel xx.val yy.val) s = .next (.pixel (s.fb[yy.val][xx.val]), s)) ∧
    (∀ x y : Int, x < 0 ∨ 63 < x ∨ y < 0 ∨ 31 < y → hostStep (.getPixel x y) s = .next (.failure, s)) ∧
    hostStep .getScreenWidth s = .next (.size 64, s) ∧ hostStep .getScreenHeight s = .next (.size 32, s) ∧
    ∃ on, hostStep .shouldPlaySound s = .next (.sound on, s) ∧ (on = true ↔ 0 < s.st.toNat)

/-- R8, R228: between ticks every host operation answers; while a tick is in progress each is refused (the
refusal is the model's treatment of D29, log 9). -/
def Obligations.HostOperationsRunBetweenTicksOnly : Prop :=
  ∀ (op : HostOp) (s : State),
    (s.iter = 0 → ∃ r t, hostStep op s = .next (r, t)) ∧
    (s.iter ≠ 0 → hostStep op s = .refused .hostActionDuringTick)

/-- R201, R202, R210: `tick_frame`, called between ticks, always ends its tick, in the state that stepping by
instruction cycle reaches, and tells the host `success` exactly when the tick succeeded and `failure` exactly
when an execution error ended it; it tells nothing else. The error that `report` names beside the failure is the
model's record (the spec's decision D13, log 2). -/
def Obligations.TickFrameTellsSuccessOrFailure : Prop :=
  ∀ s : State, s.iter = 0 → ∃ r t, hostStep .tickFrame s = .next (r, t) ∧
    runToReport s.cfg.ipf.val s = .next t ∧ t.iter = 0 ∧ (r = .success ∨ r = .failure) ∧
    (r = .success ↔ t.report = some .success) ∧ (r = .failure ↔ ∃ e, t.report = some (.failure e))
end

