-- ==== Sys2Proof/Laws/Encoding.lean ====
section
/-!
SUPPORT. The fields of a word: the decoder's extraction in numbers (spec/30_encoding.md R74), and what a match
by mask says of a field (R80).
-/

namespace Sys2Proof.Machine

open Sys2Proof

/-- A match by mask fixes each field the mask covers. -/
theorem field_of_match {w mask pattern : Word} (h : w &&& mask = pattern) (k n : Nat)
    (hm : mask.extractLsb' k n = BitVec.allOnes n) : w.extractLsb' k n = pattern.extractLsb' k n := by
  rw [← h, BitVec.extractLsb'_and, hm, BitVec.and_allOnes]

/-- A match by a mask that covers bits 15 to 12 fixes `op`. -/
theorem opField_of_match {w mask pattern : Word} (h : w &&& mask = pattern)
    (hm : mask.extractLsb' 12 4 = BitVec.allOnes 4) : opField w = opField pattern := field_of_match h 12 4 hm

/-- A match by a mask that covers bits 3 to 0 fixes `n`. -/
theorem nField_of_match {w mask pattern : Word} (h : w &&& mask = pattern)
    (hm : mask.extractLsb' 0 4 = BitVec.allOnes 4) : nField w = nField pattern := field_of_match h 0 4 hm

/-- A match by a mask that covers bits 7 to 0 fixes `nn`. -/
theorem nnField_of_match {w mask pattern : Word} (h : w &&& mask = pattern)
    (hm : mask.extractLsb' 0 8 = BitVec.allOnes 8) : nnField w = nnField pattern := field_of_match h 0 8 hm

theorem xField_eq_wordX (w : Word) : xField w = wordX w := by
  apply Fin.ext
  simp [xField, wordX, Nat.shiftRight_eq_div_pow]

theorem yField_eq_wordY (w : Word) : yField w = wordY w := by
  apply Fin.ext
  simp [yField, wordY, Nat.shiftRight_eq_div_pow]

theorem nField_eq_wordN (w : Word) : (nField w).toFin = wordN w := by
  apply Fin.ext
  simp [nField, wordN]

theorem nnField_eq_wordNN (w : Word) : nnField w = wordNN w := by
  apply BitVec.eq_of_toNat_eq
  simp [nnField, wordNN]

theorem nnnField_eq_wordNNN (w : Word) : nnnField w = wordNNN w := by
  apply BitVec.eq_of_toNat_eq
  simp [nnnField, wordNNN]

end Sys2Proof.Machine
end

