-- ==== Sys2Proof/Laws/HostOps.lean ====
section
/-!
SUPPORT. The host's interface, arm by arm: what `hostStep` answers between ticks and during one
(spec/60_exceptions.md R228), and what the host is told of a tick (R201). Proofs about the host cite these and do
not unfold `hostStep`.
-/

namespace Sys2Proof.Machine

variable {s : State}

theorem hostStep_during (op : HostOp) (h : s.iter ≠ 0) : hostStep op s = .refused .hostActionDuringTick :=
  if_pos h

theorem hostStep_initialize (n : Int) (h : s.iter = 0) :
    hostStep (.initializeOp n) s = .next (hostInitialize n s) := if_neg (not_not.mpr h)

theorem hostStep_reset (h : s.iter = 0) : hostStep .resetOp s = .next (hostReset s) := if_neg (not_not.mpr h)

theorem hostStep_loadProgram (image : List Byte) (h : s.iter = 0) :
    hostStep (.loadProgram image) s = .next (hostLoadProgram image s) := if_neg (not_not.mpr h)

theorem hostStep_setKeyState (key : Nat) (pressed : Bool) (h : s.iter = 0) :
    hostStep (.setKeyState key pressed) s = .next (hostSetKeyState key pressed s) := if_neg (not_not.mpr h)

theorem hostStep_getPixel (x y : Int) (h : s.iter = 0) :
    hostStep (.getPixel x y) s = .next (hostGetPixel x y s, s) := if_neg (not_not.mpr h)

theorem hostStep_getScreenWidth (h : s.iter = 0) : hostStep .getScreenWidth s = .next (.size screenW, s) :=
  if_neg (not_not.mpr h)

theorem hostStep_getScreenHeight (h : s.iter = 0) : hostStep .getScreenHeight s = .next (.size screenH, s) :=
  if_neg (not_not.mpr h)

theorem hostStep_shouldPlaySound (h : s.iter = 0) :
    hostStep .shouldPlaySound s = .next (.sound (hostShouldPlaySound s), s) := if_neg (not_not.mpr h)

/-- `tick_frame` answers the state its tick reaches, with the result that state reports. -/
theorem hostStep_tickFrame {t : State} (h : s.iter = 0) (ht : tickFrame s = .next t) :
    hostStep .tickFrame s = .next (tickReply t, t) := by
  unfold hostStep
  rw [if_neg (not_not.mpr h)]
  simp only [ht]

/-- The host is told of a success exactly when one is reported (R201). -/
theorem tickReply_of_success {t : State} (h : t.report = some .success) : tickReply t = .success := by
  simp [tickReply, h]

/-- An execution error is told as `failure`, without its cause (R201). -/
theorem tickReply_of_failure {t : State} {e : ExecError} (h : t.report = some (.failure e)) :
    tickReply t = .failure := by
  simp [tickReply, h]

end Sys2Proof.Machine
end

