-- ==== Sys2Proof/Laws/State.lean ====
section
/-!
SUPPORT. One lemma per field per update, true by rfl, so that no proof unfolds a record update. The
operations made of others rewrite to them.
-/

namespace Sys2Proof.Machine

variable (s : State)

@[simp] theorem State.setV_v (x : Reg) (b : Byte) : (s.setV x b).v = s.v.set x.val b := rfl
@[simp] theorem State.setV_i (x : Reg) (b : Byte) : (s.setV x b).i = s.i := rfl
@[simp] theorem State.setV_pc (x : Reg) (b : Byte) : (s.setV x b).pc = s.pc := rfl
@[simp] theorem State.setV_sp (x : Reg) (b : Byte) : (s.setV x b).sp = s.sp := rfl
@[simp] theorem State.setV_stack (x : Reg) (b : Byte) : (s.setV x b).stack = s.stack := rfl
@[simp] theorem State.setV_dt (x : Reg) (b : Byte) : (s.setV x b).dt = s.dt := rfl
@[simp] theorem State.setV_st (x : Reg) (b : Byte) : (s.setV x b).st = s.st := rfl
@[simp] theorem State.setV_keys (x : Reg) (b : Byte) : (s.setV x b).keys = s.keys := rfl
@[simp] theorem State.setV_keysPrev (x : Reg) (b : Byte) : (s.setV x b).keysPrev = s.keysPrev := rfl
@[simp] theorem State.setV_fb (x : Reg) (b : Byte) : (s.setV x b).fb = s.fb := rfl
@[simp] theorem State.setV_vblank (x : Reg) (b : Byte) : (s.setV x b).vblank = s.vblank := rfl
@[simp] theorem State.setV_ir (x : Reg) (b : Byte) : (s.setV x b).ir = s.ir := rfl
@[simp] theorem State.setV_mem (x : Reg) (b : Byte) : (s.setV x b).mem = s.mem := rfl
@[simp] theorem State.setV_cfg (x : Reg) (b : Byte) : (s.setV x b).cfg = s.cfg := rfl
@[simp] theorem State.setV_iter (x : Reg) (b : Byte) : (s.setV x b).iter = s.iter := rfl
@[simp] theorem State.setV_report (x : Reg) (b : Byte) : (s.setV x b).report = s.report := rfl
@[simp] theorem State.setV_errorSeen (x : Reg) (b : Byte) : (s.setV x b).errorSeen = s.errorSeen := rfl
@[simp] theorem State.setV_fresh (x : Reg) (b : Byte) : (s.setV x b).fresh = s.fresh := rfl

@[simp] theorem State.setI_v (a : Word) : (s.setI a).v = s.v := rfl
@[simp] theorem State.setI_i (a : Word) : (s.setI a).i = a := rfl
@[simp] theorem State.setI_pc (a : Word) : (s.setI a).pc = s.pc := rfl
@[simp] theorem State.setI_sp (a : Word) : (s.setI a).sp = s.sp := rfl
@[simp] theorem State.setI_stack (a : Word) : (s.setI a).stack = s.stack := rfl
@[simp] theorem State.setI_dt (a : Word) : (s.setI a).dt = s.dt := rfl
@[simp] theorem State.setI_st (a : Word) : (s.setI a).st = s.st := rfl
@[simp] theorem State.setI_keys (a : Word) : (s.setI a).keys = s.keys := rfl
@[simp] theorem State.setI_keysPrev (a : Word) : (s.setI a).keysPrev = s.keysPrev := rfl
@[simp] theorem State.setI_fb (a : Word) : (s.setI a).fb = s.fb := rfl
@[simp] theorem State.setI_vblank (a : Word) : (s.setI a).vblank = s.vblank := rfl
@[simp] theorem State.setI_ir (a : Word) : (s.setI a).ir = s.ir := rfl
@[simp] theorem State.setI_mem (a : Word) : (s.setI a).mem = s.mem := rfl
@[simp] theorem State.setI_cfg (a : Word) : (s.setI a).cfg = s.cfg := rfl
@[simp] theorem State.setI_iter (a : Word) : (s.setI a).iter = s.iter := rfl
@[simp] theorem State.setI_report (a : Word) : (s.setI a).report = s.report := rfl
@[simp] theorem State.setI_errorSeen (a : Word) : (s.setI a).errorSeen = s.errorSeen := rfl
@[simp] theorem State.setI_fresh (a : Word) : (s.setI a).fresh = s.fresh := rfl

@[simp] theorem State.setPc_v (a : Word) : (s.setPc a).v = s.v := rfl
@[simp] theorem State.setPc_i (a : Word) : (s.setPc a).i = s.i := rfl
@[simp] theorem State.setPc_pc (a : Word) : (s.setPc a).pc = a := rfl
@[simp] theorem State.setPc_sp (a : Word) : (s.setPc a).sp = s.sp := rfl
@[simp] theorem State.setPc_stack (a : Word) : (s.setPc a).stack = s.stack := rfl
@[simp] theorem State.setPc_dt (a : Word) : (s.setPc a).dt = s.dt := rfl
@[simp] theorem State.setPc_st (a : Word) : (s.setPc a).st = s.st := rfl
@[simp] theorem State.setPc_keys (a : Word) : (s.setPc a).keys = s.keys := rfl
@[simp] theorem State.setPc_keysPrev (a : Word) : (s.setPc a).keysPrev = s.keysPrev := rfl
@[simp] theorem State.setPc_fb (a : Word) : (s.setPc a).fb = s.fb := rfl
@[simp] theorem State.setPc_vblank (a : Word) : (s.setPc a).vblank = s.vblank := rfl
@[simp] theorem State.setPc_ir (a : Word) : (s.setPc a).ir = s.ir := rfl
@[simp] theorem State.setPc_mem (a : Word) : (s.setPc a).mem = s.mem := rfl
@[simp] theorem State.setPc_cfg (a : Word) : (s.setPc a).cfg = s.cfg := rfl
@[simp] theorem State.setPc_iter (a : Word) : (s.setPc a).iter = s.iter := rfl
@[simp] theorem State.setPc_report (a : Word) : (s.setPc a).report = s.report := rfl
@[simp] theorem State.setPc_errorSeen (a : Word) : (s.setPc a).errorSeen = s.errorSeen := rfl
@[simp] theorem State.setPc_fresh (a : Word) : (s.setPc a).fresh = s.fresh := rfl

@[simp] theorem State.raise_v (e : ExecError) : (s.raise e).v = s.v := rfl
@[simp] theorem State.raise_i (e : ExecError) : (s.raise e).i = s.i := rfl
@[simp] theorem State.raise_pc (e : ExecError) : (s.raise e).pc = s.pc := rfl
@[simp] theorem State.raise_sp (e : ExecError) : (s.raise e).sp = s.sp := rfl
@[simp] theorem State.raise_stack (e : ExecError) : (s.raise e).stack = s.stack := rfl
@[simp] theorem State.raise_dt (e : ExecError) : (s.raise e).dt = s.dt := rfl
@[simp] theorem State.raise_st (e : ExecError) : (s.raise e).st = s.st := rfl
@[simp] theorem State.raise_keys (e : ExecError) : (s.raise e).keys = s.keys := rfl
@[simp] theorem State.raise_keysPrev (e : ExecError) : (s.raise e).keysPrev = s.keysPrev := rfl
@[simp] theorem State.raise_fb (e : ExecError) : (s.raise e).fb = s.fb := rfl
@[simp] theorem State.raise_vblank (e : ExecError) : (s.raise e).vblank = s.vblank := rfl
@[simp] theorem State.raise_ir (e : ExecError) : (s.raise e).ir = s.ir := rfl
@[simp] theorem State.raise_mem (e : ExecError) : (s.raise e).mem = s.mem := rfl
@[simp] theorem State.raise_cfg (e : ExecError) : (s.raise e).cfg = s.cfg := rfl
@[simp] theorem State.raise_iter (e : ExecError) : (s.raise e).iter = 0 := rfl
@[simp] theorem State.raise_report (e : ExecError) : (s.raise e).report = some (.failure e) := rfl
@[simp] theorem State.raise_errorSeen (e : ExecError) : (s.raise e).errorSeen = true := rfl
@[simp] theorem State.raise_fresh (e : ExecError) : (s.raise e).fresh = s.fresh := rfl

@[simp] theorem State.push_v (a : Word) : (s.push a).v = s.v := rfl
@[simp] theorem State.push_i (a : Word) : (s.push a).i = s.i := rfl
@[simp] theorem State.push_pc (a : Word) : (s.push a).pc = s.pc := rfl
@[simp] theorem State.push_sp (a : Word) : (s.push a).sp = s.sp + 1 := rfl
@[simp] theorem State.push_stack (a : Word) : (s.push a).stack = s.stack.set (s.sp + 1).val a := rfl
@[simp] theorem State.push_dt (a : Word) : (s.push a).dt = s.dt := rfl
@[simp] theorem State.push_st (a : Word) : (s.push a).st = s.st := rfl
@[simp] theorem State.push_keys (a : Word) : (s.push a).keys = s.keys := rfl
@[simp] theorem State.push_keysPrev (a : Word) : (s.push a).keysPrev = s.keysPrev := rfl
@[simp] theorem State.push_fb (a : Word) : (s.push a).fb = s.fb := rfl
@[simp] theorem State.push_vblank (a : Word) : (s.push a).vblank = s.vblank := rfl
@[simp] theorem State.push_ir (a : Word) : (s.push a).ir = s.ir := rfl
@[simp] theorem State.push_mem (a : Word) : (s.push a).mem = s.mem := rfl
@[simp] theorem State.push_cfg (a : Word) : (s.push a).cfg = s.cfg := rfl
@[simp] theorem State.push_iter (a : Word) : (s.push a).iter = s.iter := rfl
@[simp] theorem State.push_report (a : Word) : (s.push a).report = s.report := rfl
@[simp] theorem State.push_errorSeen (a : Word) : (s.push a).errorSeen = s.errorSeen := rfl
@[simp] theorem State.push_fresh (a : Word) : (s.push a).fresh = s.fresh := rfl

@[simp] theorem State.popPc_v : (s.popPc).v = s.v := rfl
@[simp] theorem State.popPc_i : (s.popPc).i = s.i := rfl
@[simp] theorem State.popPc_pc : (s.popPc).pc = s.stack[s.sp.val] := rfl
@[simp] theorem State.popPc_sp : (s.popPc).sp = s.sp - 1 := rfl
@[simp] theorem State.popPc_stack : (s.popPc).stack = s.stack.set s.sp.val 0 := rfl
@[simp] theorem State.popPc_dt : (s.popPc).dt = s.dt := rfl
@[simp] theorem State.popPc_st : (s.popPc).st = s.st := rfl
@[simp] theorem State.popPc_keys : (s.popPc).keys = s.keys := rfl
@[simp] theorem State.popPc_keysPrev : (s.popPc).keysPrev = s.keysPrev := rfl
@[simp] theorem State.popPc_fb : (s.popPc).fb = s.fb := rfl
@[simp] theorem State.popPc_vblank : (s.popPc).vblank = s.vblank := rfl
@[simp] theorem State.popPc_ir : (s.popPc).ir = s.ir := rfl
@[simp] theorem State.popPc_mem : (s.popPc).mem = s.mem := rfl
@[simp] theorem State.popPc_cfg : (s.popPc).cfg = s.cfg := rfl
@[simp] theorem State.popPc_iter : (s.popPc).iter = s.iter := rfl
@[simp] theorem State.popPc_report : (s.popPc).report = s.report := rfl
@[simp] theorem State.popPc_errorSeen : (s.popPc).errorSeen = s.errorSeen := rfl
@[simp] theorem State.popPc_fresh : (s.popPc).fresh = s.fresh := rfl

@[simp] theorem State.setFb_v (fb : Screen) : (s.setFb fb).v = s.v := rfl
@[simp] theorem State.setFb_i (fb : Screen) : (s.setFb fb).i = s.i := rfl
@[simp] theorem State.setFb_pc (fb : Screen) : (s.setFb fb).pc = s.pc := rfl
@[simp] theorem State.setFb_sp (fb : Screen) : (s.setFb fb).sp = s.sp := rfl
@[simp] theorem State.setFb_stack (fb : Screen) : (s.setFb fb).stack = s.stack := rfl
@[simp] theorem State.setFb_dt (fb : Screen) : (s.setFb fb).dt = s.dt := rfl
@[simp] theorem State.setFb_st (fb : Screen) : (s.setFb fb).st = s.st := rfl
@[simp] theorem State.setFb_keys (fb : Screen) : (s.setFb fb).keys = s.keys := rfl
@[simp] theorem State.setFb_keysPrev (fb : Screen) : (s.setFb fb).keysPrev = s.keysPrev := rfl
@[simp] theorem State.setFb_fb (fb : Screen) : (s.setFb fb).fb = fb := rfl
@[simp] theorem State.setFb_vblank (fb : Screen) : (s.setFb fb).vblank = s.vblank := rfl
@[simp] theorem State.setFb_ir (fb : Screen) : (s.setFb fb).ir = s.ir := rfl
@[simp] theorem State.setFb_mem (fb : Screen) : (s.setFb fb).mem = s.mem := rfl
@[simp] theorem State.setFb_cfg (fb : Screen) : (s.setFb fb).cfg = s.cfg := rfl
@[simp] theorem State.setFb_iter (fb : Screen) : (s.setFb fb).iter = s.iter := rfl
@[simp] theorem State.setFb_report (fb : Screen) : (s.setFb fb).report = s.report := rfl
@[simp] theorem State.setFb_errorSeen (fb : Screen) : (s.setFb fb).errorSeen = s.errorSeen := rfl
@[simp] theorem State.setFb_fresh (fb : Screen) : (s.setFb fb).fresh = s.fresh := rfl

@[simp] theorem State.setDt_v (b : Byte) : (s.setDt b).v = s.v := rfl
@[simp] theorem State.setDt_i (b : Byte) : (s.setDt b).i = s.i := rfl
@[simp] theorem State.setDt_pc (b : Byte) : (s.setDt b).pc = s.pc := rfl
@[simp] theorem State.setDt_sp (b : Byte) : (s.setDt b).sp = s.sp := rfl
@[simp] theorem State.setDt_stack (b : Byte) : (s.setDt b).stack = s.stack := rfl
@[simp] theorem State.setDt_dt (b : Byte) : (s.setDt b).dt = b := rfl
@[simp] theorem State.setDt_st (b : Byte) : (s.setDt b).st = s.st := rfl
@[simp] theorem State.setDt_keys (b : Byte) : (s.setDt b).keys = s.keys := rfl
@[simp] theorem State.setDt_keysPrev (b : Byte) : (s.setDt b).keysPrev = s.keysPrev := rfl
@[simp] theorem State.setDt_fb (b : Byte) : (s.setDt b).fb = s.fb := rfl
@[simp] theorem State.setDt_vblank (b : Byte) : (s.setDt b).vblank = s.vblank := rfl
@[simp] theorem State.setDt_ir (b : Byte) : (s.setDt b).ir = s.ir := rfl
@[simp] theorem State.setDt_mem (b : Byte) : (s.setDt b).mem = s.mem := rfl
@[simp] theorem State.setDt_cfg (b : Byte) : (s.setDt b).cfg = s.cfg := rfl
@[simp] theorem State.setDt_iter (b : Byte) : (s.setDt b).iter = s.iter := rfl
@[simp] theorem State.setDt_report (b : Byte) : (s.setDt b).report = s.report := rfl
@[simp] theorem State.setDt_errorSeen (b : Byte) : (s.setDt b).errorSeen = s.errorSeen := rfl
@[simp] theorem State.setDt_fresh (b : Byte) : (s.setDt b).fresh = s.fresh := rfl

@[simp] theorem State.setSt_v (b : Byte) : (s.setSt b).v = s.v := rfl
@[simp] theorem State.setSt_i (b : Byte) : (s.setSt b).i = s.i := rfl
@[simp] theorem State.setSt_pc (b : Byte) : (s.setSt b).pc = s.pc := rfl
@[simp] theorem State.setSt_sp (b : Byte) : (s.setSt b).sp = s.sp := rfl
@[simp] theorem State.setSt_stack (b : Byte) : (s.setSt b).stack = s.stack := rfl
@[simp] theorem State.setSt_dt (b : Byte) : (s.setSt b).dt = s.dt := rfl
@[simp] theorem State.setSt_st (b : Byte) : (s.setSt b).st = b := rfl
@[simp] theorem State.setSt_keys (b : Byte) : (s.setSt b).keys = s.keys := rfl
@[simp] theorem State.setSt_keysPrev (b : Byte) : (s.setSt b).keysPrev = s.keysPrev := rfl
@[simp] theorem State.setSt_fb (b : Byte) : (s.setSt b).fb = s.fb := rfl
@[simp] theorem State.setSt_vblank (b : Byte) : (s.setSt b).vblank = s.vblank := rfl
@[simp] theorem State.setSt_ir (b : Byte) : (s.setSt b).ir = s.ir := rfl
@[simp] theorem State.setSt_mem (b : Byte) : (s.setSt b).mem = s.mem := rfl
@[simp] theorem State.setSt_cfg (b : Byte) : (s.setSt b).cfg = s.cfg := rfl
@[simp] theorem State.setSt_iter (b : Byte) : (s.setSt b).iter = s.iter := rfl
@[simp] theorem State.setSt_report (b : Byte) : (s.setSt b).report = s.report := rfl
@[simp] theorem State.setSt_errorSeen (b : Byte) : (s.setSt b).errorSeen = s.errorSeen := rfl
@[simp] theorem State.setSt_fresh (b : Byte) : (s.setSt b).fresh = s.fresh := rfl

@[simp] theorem State.updateTimers_v : (s.updateTimers).v = s.v := rfl
@[simp] theorem State.updateTimers_i : (s.updateTimers).i = s.i := rfl
@[simp] theorem State.updateTimers_pc : (s.updateTimers).pc = s.pc := rfl
@[simp] theorem State.updateTimers_sp : (s.updateTimers).sp = s.sp := rfl
@[simp] theorem State.updateTimers_stack : (s.updateTimers).stack = s.stack := rfl
@[simp] theorem State.updateTimers_dt : (s.updateTimers).dt = tickDown s.dt := rfl
@[simp] theorem State.updateTimers_st : (s.updateTimers).st = tickDown s.st := rfl
@[simp] theorem State.updateTimers_keys : (s.updateTimers).keys = s.keys := rfl
@[simp] theorem State.updateTimers_keysPrev : (s.updateTimers).keysPrev = s.keysPrev := rfl
@[simp] theorem State.updateTimers_fb : (s.updateTimers).fb = s.fb := rfl
@[simp] theorem State.updateTimers_vblank : (s.updateTimers).vblank = s.vblank := rfl
@[simp] theorem State.updateTimers_ir : (s.updateTimers).ir = s.ir := rfl
@[simp] theorem State.updateTimers_mem : (s.updateTimers).mem = s.mem := rfl
@[simp] theorem State.updateTimers_cfg : (s.updateTimers).cfg = s.cfg := rfl
@[simp] theorem State.updateTimers_iter : (s.updateTimers).iter = s.iter := rfl
@[simp] theorem State.updateTimers_report : (s.updateTimers).report = s.report := rfl
@[simp] theorem State.updateTimers_errorSeen : (s.updateTimers).errorSeen = s.errorSeen := rfl
@[simp] theorem State.updateTimers_fresh : (s.updateTimers).fresh = s.fresh := rfl

@[simp] theorem State.snapshotKeys_v : (s.snapshotKeys).v = s.v := rfl
@[simp] theorem State.snapshotKeys_i : (s.snapshotKeys).i = s.i := rfl
@[simp] theorem State.snapshotKeys_pc : (s.snapshotKeys).pc = s.pc := rfl
@[simp] theorem State.snapshotKeys_sp : (s.snapshotKeys).sp = s.sp := rfl
@[simp] theorem State.snapshotKeys_stack : (s.snapshotKeys).stack = s.stack := rfl
@[simp] theorem State.snapshotKeys_dt : (s.snapshotKeys).dt = s.dt := rfl
@[simp] theorem State.snapshotKeys_st : (s.snapshotKeys).st = s.st := rfl
@[simp] theorem State.snapshotKeys_keys : (s.snapshotKeys).keys = s.keys := rfl
@[simp] theorem State.snapshotKeys_keysPrev : (s.snapshotKeys).keysPrev = s.keys := rfl
@[simp] theorem State.snapshotKeys_fb : (s.snapshotKeys).fb = s.fb := rfl
@[simp] theorem State.snapshotKeys_vblank : (s.snapshotKeys).vblank = s.vblank := rfl
@[simp] theorem State.snapshotKeys_ir : (s.snapshotKeys).ir = s.ir := rfl
@[simp] theorem State.snapshotKeys_mem : (s.snapshotKeys).mem = s.mem := rfl
@[simp] theorem State.snapshotKeys_cfg : (s.snapshotKeys).cfg = s.cfg := rfl
@[simp] theorem State.snapshotKeys_iter : (s.snapshotKeys).iter = s.iter := rfl
@[simp] theorem State.snapshotKeys_report : (s.snapshotKeys).report = s.report := rfl
@[simp] theorem State.snapshotKeys_errorSeen : (s.snapshotKeys).errorSeen = s.errorSeen := rfl
@[simp] theorem State.snapshotKeys_fresh : (s.snapshotKeys).fresh = s.fresh := rfl

@[simp] theorem State.drawByte_snd_v : (s.drawByte.2).v = s.v := rfl
@[simp] theorem State.drawByte_snd_i : (s.drawByte.2).i = s.i := rfl
@[simp] theorem State.drawByte_snd_pc : (s.drawByte.2).pc = s.pc := rfl
@[simp] theorem State.drawByte_snd_sp : (s.drawByte.2).sp = s.sp := rfl
@[simp] theorem State.drawByte_snd_stack : (s.drawByte.2).stack = s.stack := rfl
@[simp] theorem State.drawByte_snd_dt : (s.drawByte.2).dt = s.dt := rfl
@[simp] theorem State.drawByte_snd_st : (s.drawByte.2).st = s.st := rfl
@[simp] theorem State.drawByte_snd_keys : (s.drawByte.2).keys = s.keys := rfl
@[simp] theorem State.drawByte_snd_keysPrev : (s.drawByte.2).keysPrev = s.keysPrev := rfl
@[simp] theorem State.drawByte_snd_fb : (s.drawByte.2).fb = s.fb := rfl
@[simp] theorem State.drawByte_snd_vblank : (s.drawByte.2).vblank = s.vblank := rfl
@[simp] theorem State.drawByte_snd_ir : (s.drawByte.2).ir = s.ir := rfl
@[simp] theorem State.drawByte_snd_mem : (s.drawByte.2).mem = s.mem := rfl
@[simp] theorem State.drawByte_snd_cfg : (s.drawByte.2).cfg = s.cfg := rfl
@[simp] theorem State.drawByte_snd_iter : (s.drawByte.2).iter = s.iter := rfl
@[simp] theorem State.drawByte_snd_report : (s.drawByte.2).report = s.report := rfl
@[simp] theorem State.drawByte_snd_errorSeen : (s.drawByte.2).errorSeen = s.errorSeen := rfl
@[simp] theorem State.drawByte_snd_fresh : (s.drawByte.2).fresh = s.fresh + 1 := rfl

@[simp] theorem State.skip_eq_setPc : s.skip = s.setPc (s.pc + 2) := rfl
@[simp] theorem State.retry_eq_setPc : s.retry = s.setPc (s.pc - 2) := rfl
@[simp] theorem State.setVThenFlag_eq (x : Reg) (r f : Byte) : s.setVThenFlag x r f = (s.setV x r).setV vf f := rfl
@[simp] theorem State.advanceI_eq_setI (k : Nat) : s.advanceI k = s.setI (s.i + BitVec.ofNat 16 k) := rfl
@[simp] theorem State.drawByte_fst : s.drawByte.1 = Config.rnd s.fresh := rfl
@[simp] theorem State.endTick_eq : s.endTick = { s.snapshotKeys with iter := 0, report := some .success } := rfl

/-- A conditional skip moves `pc` or nothing (R103). -/
theorem State.skipIf_eq_setPc (c : Bool) : s.skipIf c = s.setPc (if c then s.pc + 2 else s.pc) := by
  cases c <;> rfl

end Sys2Proof.Machine
end

