-- ==== Sys2Proof/Laws/Memory.lean ====
section
/-!
SUPPORT. The laws of memory: a read after a write (spec/20_memory.md R57), the canonical form kept by
every write, equal contents are equal data, and what a run of writes leaves.
-/

namespace Sys2Proof.Machine

variable {bg : Nat → Byte}

theorem Memory.wfFrom_cons {lo a : Nat} {u : Byte} {m : Memory} :
    Memory.wfFrom bg lo ((a, u) :: m) = true ↔
      lo ≤ a ∧ a < memSize ∧ u ≠ bg a ∧ Memory.wfFrom bg (a + 1) m = true := by
  simp [Memory.wfFrom, and_assoc]

theorem Memory.wfFrom_mono {lo lo' : Nat} {m : Memory} (h : lo' ≤ lo) (w : Memory.wfFrom bg lo m = true) :
    Memory.wfFrom bg lo' m = true := by
  cases m with
  | nil => rfl
  | cons c m =>
    obtain ⟨h1, h2, h3, h4⟩ := Memory.wfFrom_cons.mp w
    exact Memory.wfFrom_cons.mpr ⟨h.trans h1, h2, h3, h4⟩

/-- Below the first listed address the background shows. -/
theorem Memory.look_of_lt {lo a : Nat} {m : Memory} (w : Memory.wfFrom bg lo m = true) (h : a < lo) :
    Memory.look bg m a = bg a := by
  induction m generalizing lo with
  | nil => rfl
  | cons c m ih =>
    obtain ⟨h1, -, -, h4⟩ := Memory.wfFrom_cons.mp w
    have : a ≠ c.1 := by omega
    simp [Memory.look, this, ih h4 (by omega)]

/-- Every write keeps the canonical form. -/
theorem Memory.put_wfFrom {lo a : Nat} (u : Byte) {m : Memory} (w : Memory.wfFrom bg lo m = true)
    (hlo : lo ≤ a) (ha : a < memSize) : Memory.wfFrom bg lo (Memory.put bg m a u) = true := by
  induction m generalizing lo with
  | nil =>
    by_cases h : u = bg a
    · simp [Memory.put, h, Memory.wfFrom]
    · simp only [Memory.put, if_neg h]
      exact Memory.wfFrom_cons.mpr ⟨hlo, ha, h, rfl⟩
  | cons c m ih =>
    obtain ⟨b, x⟩ := c
    obtain ⟨h1, h2, h3, h4⟩ := Memory.wfFrom_cons.mp w
    unfold Memory.put
    split_ifs with hab hu hae hu
    · exact w
    · exact Memory.wfFrom_cons.mpr ⟨hlo, ha, hu, Memory.wfFrom_cons.mpr ⟨hab, h2, h3, h4⟩⟩
    · exact Memory.wfFrom_mono (by omega) h4
    · subst hae; exact Memory.wfFrom_cons.mpr ⟨hlo, ha, hu, h4⟩
    · exact Memory.wfFrom_cons.mpr ⟨h1, h2, h3, ih h4 (by omega)⟩

/-- A read after a write, in a canonical memory (R57). -/
theorem Memory.look_put {lo a b : Nat} (u : Byte) {m : Memory} (w : Memory.wfFrom bg lo m = true) :
    Memory.look bg (Memory.put bg m a u) b = if b = a then u else Memory.look bg m b := by
  induction m generalizing lo with
  | nil =>
    unfold Memory.put
    split_ifs with hu hb hb
    · subst hb; simp [Memory.look, hu]
    · rfl
    · simp [Memory.look, hb]
    · simp [Memory.look, hb]
  | cons c m ih =>
    obtain ⟨d, x⟩ := c
    obtain ⟨-, -, -, h4⟩ := Memory.wfFrom_cons.mp w
    unfold Memory.put
    by_cases hab : a < d
    · rw [if_pos hab]
      by_cases hb : b = a
      · subst hb
        by_cases hu : u = bg b
        · rw [if_pos hu, if_pos rfl, hu]
          exact Memory.look_of_lt (lo := d) (Memory.wfFrom_cons.mpr ⟨le_refl _, (Memory.wfFrom_cons.mp w).2⟩) hab
        · simp [Memory.look, hu]
      · by_cases hu : u = bg a <;> simp [Memory.look, hu, hb]
    · by_cases hae : a = d
      · subst hae
        by_cases hu : u = bg a
        · by_cases hb : b = a
          · subst hb; simp [hu, Memory.look_of_lt h4 (Nat.lt_succ_self _)]
          · simp [Memory.look, hu, hb]
        · by_cases hb : b = a <;> simp [Memory.look, hu, hb]
      · simp only [if_neg hab, if_neg hae, Memory.look, ih h4]
        by_cases hb : b = d
        · subst hb; simp [Ne.symm hae]
        · simp [hb]

/-- A write leaves every other address alone, in any memory (R57). -/
theorem Memory.look_put_of_ne {a b : Nat} (u : Byte) (m : Memory) (h : b ≠ a) :
    Memory.look bg (Memory.put bg m a u) b = Memory.look bg m b := by
  induction m with
  | nil => unfold Memory.put; split_ifs <;> simp [Memory.look, h]
  | cons c m ih =>
    obtain ⟨d, x⟩ := c
    unfold Memory.put
    split_ifs with h1 h2 h3 h4
    · rfl
    · simp [Memory.look, h]
    · subst h3; simp [Memory.look, h]
    · subst h3; simp [Memory.look, h]
    · simp [Memory.look, ih]

/-- Canonical memories with equal contents are equal. -/
theorem Memory.eq_of_look {lo : Nat} {m m' : Memory} (w : Memory.wfFrom bg lo m = true)
    (w' : Memory.wfFrom bg lo m' = true) (h : ∀ a, Memory.look bg m a = Memory.look bg m' a) : m = m' := by
  induction m generalizing lo m' with
  | nil =>
    cases m' with
    | nil => rfl
    | cons c m' =>
      obtain ⟨-, -, h3, -⟩ := Memory.wfFrom_cons.mp w'
      have := h c.1
      simp [Memory.look] at this
      exact absurd this.symm h3
  | cons c m ih =>
    obtain ⟨a, u⟩ := c
    obtain ⟨-, h2, h3, h4⟩ := Memory.wfFrom_cons.mp w
    cases m' with
    | nil =>
      have := h a
      simp [Memory.look] at this
      exact absurd this h3
    | cons c' m' =>
      obtain ⟨b, x⟩ := c'
      obtain ⟨-, g2, g3, g4⟩ := Memory.wfFrom_cons.mp w'
      have hab : a = b := by
        rcases Nat.lt_trichotomy a b with hlt | heq | hgt
        · have := h a
          rw [Memory.look_of_lt (lo := b) (Memory.wfFrom_cons.mpr ⟨le_refl _, g2, g3, g4⟩) hlt] at this
          simp [Memory.look] at this
          exact absurd this h3
        · exact heq
        · have := h b
          rw [Memory.look_of_lt (lo := a) (Memory.wfFrom_cons.mpr ⟨le_refl _, h2, h3, h4⟩) hgt] at this
          simp [Memory.look] at this
          exact absurd this.symm g3
      subst hab
      have hu : u = x := by simpa [Memory.look] using h a
      subst hu
      rw [ih h4 g4 fun k => ?_]
      by_cases hk : k = a
      · subst hk
        rw [Memory.look_of_lt h4 (Nat.lt_succ_self _), Memory.look_of_lt g4 (Nat.lt_succ_self _)]
      · simpa [Memory.look, hk] using h k

variable (s : State)

/-- A write changes memory only. -/
theorem State.writeByte_frame (a : Nat) (b : Byte) : s.writeByte a b = { s with mem := (s.writeByte a b).mem } := by
  unfold State.writeByte; split <;> rfl

@[simp] theorem State.writeByte_cfg (a : Nat) (b : Byte) : (s.writeByte a b).cfg = s.cfg := by
  rw [State.writeByte_frame]

/-- A write keeps the canonical form. -/
theorem State.writeByte_wf (a : Nat) (b : Byte) (w : Memory.wf s.cfg s.mem = true) :
    Memory.wf (s.writeByte a b).cfg (s.writeByte a b).mem = true := by
  unfold State.writeByte
  split
  · next h => exact Memory.put_wfFrom b w (Nat.zero_le _) h
  · exact w

/-- A read after a write (R57). -/
theorem State.readByte_writeByte (a k : Nat) (b : Byte) (w : Memory.wf s.cfg s.mem = true) (h : a < 4096) :
    (s.writeByte a b).readByte k = if k = a then b else s.readByte k := by
  simp only [State.writeByte, if_pos (show a < memSize from h), State.readByte]
  exact Memory.look_put b w

/-- A write leaves every other address alone, in any state (R57). -/
theorem State.readByte_writeByte_of_ne (a k : Nat) (b : Byte) (h : k ≠ a) :
    (s.writeByte a b).readByte k = s.readByte k := by
  unfold State.writeByte
  split
  · exact Memory.look_put_of_ne b s.mem h
  · rfl

/-- A run of writes changes memory only. -/
theorem State.writeBytes_frame (bs : List Byte) (a : Nat) :
    s.writeBytes a bs = { s with mem := (s.writeBytes a bs).mem } := by
  induction bs generalizing s a with
  | nil => rfl
  | cons b bs ih =>
    simp only [State.writeBytes]
    rw [ih (s.writeByte a b) (a + 1)]
    rw [State.writeByte_frame]

@[simp] theorem State.writeBytes_cfg (bs : List Byte) (a : Nat) : (s.writeBytes a bs).cfg = s.cfg := by
  rw [State.writeBytes_frame]

/-- A run of writes keeps the canonical form. -/
theorem State.writeBytes_wf (bs : List Byte) (a : Nat) (w : Memory.wf s.cfg s.mem = true) :
    Memory.wf (s.writeBytes a bs).cfg (s.writeBytes a bs).mem = true := by
  induction bs generalizing s a with
  | nil => exact w
  | cons b bs ih => exact ih _ _ (State.writeByte_wf s a b w)

/-- What a run of writes inside memory leaves at every address. -/
theorem State.readByte_writeBytes (bs : List Byte) (a k : Nat) (w : Memory.wf s.cfg s.mem = true)
    (h : a + bs.length ≤ 4096) :
    (s.writeBytes a bs).readByte k =
      if a ≤ k ∧ k < a + bs.length then bs[k - a]?.getD 0 else s.readByte k := by
  induction bs generalizing s a with
  | nil => simp [State.writeBytes]
  | cons b bs ih =>
    simp only [List.length_cons] at h ⊢
    rw [State.writeBytes, ih _ _ (State.writeByte_wf s a b w) (by omega),
      State.readByte_writeByte s a k b w (by omega)]
    by_cases hk : k = a
    · subst hk; simp
    · by_cases hr : a + 1 ≤ k ∧ k < a + 1 + bs.length
      · obtain ⟨j, rfl⟩ := Nat.exists_eq_add_of_le hr.1
        rw [if_pos hr, if_pos (by omega)]
        simp [show a + 1 + j - a = j + 1 by omega]
      · rw [if_neg hr, if_neg hk, if_neg (by omega)]

/-- A run of writes leaves every address outside it alone, in any state. -/
theorem State.readByte_writeBytes_outside (bs : List Byte) (a k : Nat) (h : ¬ (a ≤ k ∧ k < a + bs.length)) :
    (s.writeBytes a bs).readByte k = s.readByte k := by
  induction bs generalizing s a with
  | nil => rfl
  | cons b bs ih =>
    simp only [List.length_cons] at h
    rw [State.writeBytes, ih _ _ (by omega), State.readByte_writeByte_of_ne _ _ _ _ (by omega)]

/-- The range check fails exactly when a byte of the range lies above 0xFFF (R52). -/
theorem rangeError_eq_none (a len : Nat) : rangeError a len = none ↔ len = 0 ∨ a + len ≤ 0x1000 := by
  unfold rangeError
  split
  · simp; omega
  · simp; omega

/-- The error names the lowest offending address: I itself, or 0x1000 (R52). -/
theorem rangeError_eq_some (a len : Nat) (e : ExecError) :
    rangeError a len = some e ↔ (0 < len ∧ 0x1000 < a + len) ∧ e = .addressOutOfRange (max a 0x1000) := by
  unfold rangeError
  split
  · next h =>
    constructor
    · intro he; exact ⟨⟨h.1, by omega⟩, by simpa using he.symm⟩
    · rintro ⟨-, rfl⟩; rfl
  · next h =>
    constructor
    · intro he; simp at he
    · rintro ⟨⟨h1, h2⟩, -⟩; exact absurd ⟨h1, by omega⟩ h

end Sys2Proof.Machine
end

