-- ==== Sys2Proof/Laws/Operands.lean ====
section
/-!
SUPPORT. What each operand form, each arithmetic operation and taking an error does, in numbers: one lemma
per shared operation.
-/

namespace Sys2Proof.Machine

variable (s : State)

/-- Taking an error is the state R203 describes. -/
theorem State.raise_eq_failedWith (e : ExecError) : s.raise e = s.failedWith e := rfl

/-- A fetched word in numbers: big-endian (R53, R71). -/
theorem toNat_wordOfBytes (hi lo : Byte) : (wordOfBytes hi lo).toNat = hi.toNat * 256 + lo.toNat := by
  have h : (hi ++ lo).toNat = hi.toNat <<< 8 ||| lo.toNat := BitVec.toNat_append hi lo
  rw [wordOfBytes, h, ← Nat.shiftLeft_add_eq_or_of_lt lo.isLt, Nat.shiftLeft_eq]

@[simp] theorem toNat_addrOperand (nnn : BitVec 12) : (addrOperand nnn).toNat = nnn.toNat := by
  have := nnn.isLt
  simp [addrOperand]; omega

@[simp] theorem toNat_byteOperand (b : Byte) : (byteOperand b).toNat = b.toNat := by
  have := b.isLt
  simp [byteOperand]; omega

@[simp] theorem toNat_glyphAddr (c : Config) (b : Byte) :
    (glyphAddr c b).toNat = c.fontBase.val + 5 * (b.toNat % 16) := by
  have := c.fontBase.isLt
  simp [glyphAddr]; omega

@[simp] theorem toNat_flagOf (c : Bool) : (flagOf c).toNat = if c then 1 else 0 := by cases c <;> rfl

@[simp] theorem toNat_addByte (a b : Byte) : (addByte a b).toNat = (a.toNat + b.toNat) % 256 := by
  simp [addByte]

@[simp] theorem toNat_subByte (a b : Byte) : (subByte a b).toNat = (a.toNat + 256 - b.toNat) % 256 := by
  simp [subByte]

@[simp] theorem toNat_shrByte (b : Byte) : (shrByte b).toNat = b.toNat / 2 := by
  simp [shrByte, Nat.shiftRight_eq_div_pow]

@[simp] theorem toNat_shlByte (b : Byte) : (shlByte b).toNat = b.toNat * 2 % 256 := by
  simp [shlByte, Nat.shiftLeft_eq]

@[simp] theorem toNat_tickDown (t : Byte) : (tickDown t).toNat = t.toNat - 1 := by
  unfold tickDown
  split
  · next h => subst h; rfl
  · next h =>
    have h0 : t.toNat ≠ 0 := fun e => h (BitVec.eq_of_toNat_eq e)
    have := t.isLt
    rw [BitVec.toNat_sub]
    simp; omega

/-- A key number in range (R170). -/
theorem keyOperand_of_eq {b : Byte} {k : Fin 16} (h : b.toNat = k.val) : keyOperand b = some k := by
  unfold keyOperand
  rw [dif_pos (by omega)]
  simp [h]

/-- A key number out of range (R170). -/
theorem keyOperand_of_gt {b : Byte} (h : 15 < b.toNat) : keyOperand b = none := by
  unfold keyOperand
  rw [dif_neg (by omega)]

/-- The check on the range at I passes (R52). -/
theorem State.rangeAtI_none {len : Nat} (h : len = 0 ∨ s.i.toNat + len ≤ 0x1000) : s.rangeAtI len = none :=
  (rangeError_eq_none _ _).mpr h

/-- The check on the range at I fails, with the lowest offending address (R52). -/
theorem State.rangeAtI_some {len : Nat} (h : 0 < len) (h' : 0xFFF < s.i.toNat + len - 1) :
    s.rangeAtI len = some (.addressOutOfRange (max s.i.toNat 0x1000)) :=
  (rangeError_eq_some _ _ _).mpr ⟨⟨h, by omega⟩, rfl⟩

@[simp] theorem length_regsUpTo (x : Reg) : (s.regsUpTo x).length = x.val + 1 := by
  simp [State.regsUpTo]

/-- The bytes `FX55` stores, in rising register order (R144). -/
theorem getElem_regsUpTo {x k : Reg} (h : k ≤ x) : (s.regsUpTo x)[k.val]?.getD 0 = s.getV k := by
  have : k.val < x.val + 1 := Nat.lt_succ_of_le (Fin.le_def.mp h)
  simp [State.regsUpTo, this, State.getV]

/-- The registers `FX65` leaves (R145). -/
theorem getElem_loadedRegs (x k : Reg) :
    (s.loadedRegs x)[k.val] = if k ≤ x then s.readByte (s.i.toNat + k.val) else s.getV k := by
  unfold State.loadedRegs
  rw [Vector.getElem_ofFn]
  rfl

end Sys2Proof.Machine
end

