-- ==== Sys2Proof/Laws/PerInstr.lean ====
section
/-!
SUPPORT. The per-instruction family Encoding: an instruction's operands fit their fields (spec/30_encoding.md
R74), and its encoded word is canonical for its row of the opcode map, every don't-care bit zero (R80, R83).
-/

namespace Sys2Proof.Laws.Encoding

/-- The operands fit, and the word matches its row by the canonical mask. -/
def Statement (i : Instr) : Prop :=
  i.wellFormed = true ∧ encode i &&& (rowOf i).canon = (rowOf i).pattern

theorem and_ones4 (x : BitVec 4) : x &&& 15#4 = x := BitVec.and_allOnes

theorem and_ones8 (x : BitVec 8) : x &&& 255#8 = x := BitVec.and_allOnes

theorem ofAddr_and (op : BitVec 4) (nnn : BitVec 12) : ofAddr op nnn &&& 0xF000#16 = op ++ 0#12 := by
  have : (0xF000#16 : Word) = 0xF#4 ++ 0#12 := by decide
  rw [this]
  unfold ofAddr
  rw [BitVec.and_append]
  simp [and_ones4, -BitVec.ofNat_eq_ofNat]

theorem ofXByte_and (op : BitVec 4) (x : Reg) (nn : Byte) : ofXByte op x nn &&& 0xF000#16 = op ++ 0#4 ++ 0#8 := by
  have : (0xF000#16 : Word) = 0xF#4 ++ 0#4 ++ 0#8 := by decide
  rw [this]
  unfold ofXByte
  rw [BitVec.and_append, BitVec.and_append]
  simp [and_ones4, -BitVec.ofNat_eq_ofNat]

theorem ofXByte_and_key (op : BitVec 4) (x : Reg) (nn : Byte) :
    ofXByte op x nn &&& 0xF0FF#16 = op ++ 0#4 ++ nn := by
  have : (0xF0FF#16 : Word) = 0xF#4 ++ 0#4 ++ 0xFF#8 := by decide
  rw [this]
  unfold ofXByte
  rw [BitVec.and_append, BitVec.and_append]
  simp [and_ones4, and_ones8, -BitVec.ofNat_eq_ofNat]

theorem ofXY_and_key (op : BitVec 4) (x y : Reg) (n : BitVec 4) :
    ofXY op x y n &&& 0xF00F#16 = op ++ 0#4 ++ 0#4 ++ n := by
  have : (0xF00F#16 : Word) = 0xF#4 ++ 0#4 ++ 0#4 ++ 0xF#4 := by decide
  rw [this]
  unfold ofXY ofNibbles
  rw [BitVec.and_append, BitVec.and_append, BitVec.and_append]
  simp [and_ones4, -BitVec.ofNat_eq_ofNat]

theorem ofXY_and (op : BitVec 4) (x y : Reg) (n : BitVec 4) :
    ofXY op x y n &&& 0xF000#16 = op ++ 0#4 ++ 0#4 ++ 0#4 := by
  have : (0xF000#16 : Word) = 0xF#4 ++ 0#4 ++ 0#4 ++ 0#4 := by decide
  rw [this]
  unfold ofXY ofNibbles
  rw [BitVec.and_append, BitVec.and_append, BitVec.and_append]
  simp [and_ones4, -BitVec.ofNat_eq_ofNat]

theorem fits_reg (x : Reg) : fitsField 4 x.val = true := decide_eq_true x.isLt
theorem fits_byte (b : Byte) : fitsField 8 b.toNat = true := decide_eq_true b.isLt
theorem fits_addr (a : BitVec 12) : fitsField 12 a.toNat = true := decide_eq_true a.isLt

/-- Every term of Instr is well formed: its operands have their fields' widths by their types (R76). -/
theorem fits (i : Instr) : i.wellFormed = true := by
  cases i <;> simp [Instr.wellFormed, Instr.fields, fits_reg, fits_byte, fits_addr]

theorem cls : Statement .cls :=
  ⟨fits _, by decide⟩

theorem ret : Statement .ret :=
  ⟨fits _, by decide⟩

theorem jp (nnn : BitVec 12) : Statement (.jp nnn) :=
  ⟨fits _, (ofAddr_and _ _).trans rfl⟩

theorem call (nnn : BitVec 12) : Statement (.call nnn) :=
  ⟨fits _, (ofAddr_and _ _).trans rfl⟩

theorem seImm (x : Reg) (nn : Byte) : Statement (.seImm x nn) :=
  ⟨fits _, (ofXByte_and _ _ _).trans rfl⟩

theorem sneImm (x : Reg) (nn : Byte) : Statement (.sneImm x nn) :=
  ⟨fits _, (ofXByte_and _ _ _).trans rfl⟩

theorem seReg (x y : Reg) : Statement (.seReg x y) :=
  ⟨fits _, (ofXY_and_key _ _ _ _).trans rfl⟩

theorem sneReg (x y : Reg) : Statement (.sneReg x y) :=
  ⟨fits _, (ofXY_and_key _ _ _ _).trans rfl⟩

theorem ldImm (x : Reg) (nn : Byte) : Statement (.ldImm x nn) :=
  ⟨fits _, (ofXByte_and _ _ _).trans rfl⟩

theorem addImm (x : Reg) (nn : Byte) : Statement (.addImm x nn) :=
  ⟨fits _, (ofXByte_and _ _ _).trans rfl⟩

theorem ldReg (x y : Reg) : Statement (.ldReg x y) :=
  ⟨fits _, (ofXY_and_key _ _ _ _).trans rfl⟩

theorem orReg (x y : Reg) : Statement (.orReg x y) :=
  ⟨fits _, (ofXY_and_key _ _ _ _).trans rfl⟩

theorem andReg (x y : Reg) : Statement (.andReg x y) :=
  ⟨fits _, (ofXY_and_key _ _ _ _).trans rfl⟩

theorem xorReg (x y : Reg) : Statement (.xorReg x y) :=
  ⟨fits _, (ofXY_and_key _ _ _ _).trans rfl⟩

theorem addReg (x y : Reg) : Statement (.addReg x y) :=
  ⟨fits _, (ofXY_and_key _ _ _ _).trans rfl⟩

theorem subReg (x y : Reg) : Statement (.subReg x y) :=
  ⟨fits _, (ofXY_and_key _ _ _ _).trans rfl⟩

theorem shr (x y : Reg) : Statement (.shr x y) :=
  ⟨fits _, (ofXY_and_key _ _ _ _).trans rfl⟩

theorem subn (x y : Reg) : Statement (.subn x y) :=
  ⟨fits _, (ofXY_and_key _ _ _ _).trans rfl⟩

theorem shl (x y : Reg) : Statement (.shl x y) :=
  ⟨fits _, (ofXY_and_key _ _ _ _).trans rfl⟩

theorem ldI (nnn : BitVec 12) : Statement (.ldI nnn) :=
  ⟨fits _, (ofAddr_and _ _).trans rfl⟩

theorem jpV0 (nnn : BitVec 12) : Statement (.jpV0 nnn) :=
  ⟨fits _, (ofAddr_and _ _).trans rfl⟩

theorem rnd (x : Reg) (nn : Byte) : Statement (.rnd x nn) :=
  ⟨fits _, (ofXByte_and _ _ _).trans rfl⟩

theorem drw (x y : Reg) (n : Fin 16) : Statement (.drw x y n) :=
  ⟨fits _, (ofXY_and _ _ _ _).trans rfl⟩

theorem skp (x : Reg) : Statement (.skp x) :=
  ⟨fits _, (ofXByte_and_key _ _ _).trans rfl⟩

theorem sknp (x : Reg) : Statement (.sknp x) :=
  ⟨fits _, (ofXByte_and_key _ _ _).trans rfl⟩

theorem ldVxDt (x : Reg) : Statement (.ldVxDt x) :=
  ⟨fits _, (ofXByte_and_key _ _ _).trans rfl⟩

theorem wkr (x : Reg) : Statement (.wkr x) :=
  ⟨fits _, (ofXByte_and_key _ _ _).trans rfl⟩

theorem ldDtVx (x : Reg) : Statement (.ldDtVx x) :=
  ⟨fits _, (ofXByte_and_key _ _ _).trans rfl⟩

theorem ldStVx (x : Reg) : Statement (.ldStVx x) :=
  ⟨fits _, (ofXByte_and_key _ _ _).trans rfl⟩

theorem addI (x : Reg) : Statement (.addI x) :=
  ⟨fits _, (ofXByte_and_key _ _ _).trans rfl⟩

theorem ldF (x : Reg) : Statement (.ldF x) :=
  ⟨fits _, (ofXByte_and_key _ _ _).trans rfl⟩

theorem ldB (x : Reg) : Statement (.ldB x) :=
  ⟨fits _, (ofXByte_and_key _ _ _).trans rfl⟩

theorem storeRegs (x : Reg) : Statement (.storeRegs x) :=
  ⟨fits _, (ofXByte_and_key _ _ _).trans rfl⟩

theorem loadRegs (x : Reg) : Statement (.loadRegs x) :=
  ⟨fits _, (ofXByte_and_key _ _ _).trans rfl⟩

end Sys2Proof.Laws.Encoding
end

