-- ==== Sys2Proof/Laws/Registers.lean ====
section
/-!
SUPPORT. What a register write does (spec/10_state.md R20, 41_load_alu.md R121), and what the stack
operations do to the slots (R24).
-/

namespace Sys2Proof.Machine

variable (s : State)

theorem State.getV_setV (x r : Reg) (b : Byte) : (s.setV x b).getV r = if r = x then b else s.getV r := by
  by_cases h : r = x
  · subst h; simp [State.getV]
  · have : x.val ≠ r.val := fun e => h (Fin.ext e.symm)
    simp [State.getV, h, Vector.getElem_set_ne, this]

/-- Two writes, the flag last: with x = 15 the flag is what VF holds (R121). -/
theorem State.getV_setVThenFlag (x r : Reg) (b f : Byte) :
    (s.setVThenFlag x b f).getV r = if r = vf then f else if r = x then b else s.getV r := by
  simp [State.getV_setV]

/-- A register write changes the registers only. -/
theorem State.setV_frame (x : Reg) (b : Byte) : s.setV x b = { s with v := (s.setV x b).v } := rfl

theorem State.getV_eq_of_v (t : State) (h : t.v = s.v) (r : Reg) : t.getV r = s.getV r := by
  simp [State.getV, h]

/-- The slots after a push: the new top holds the address, the others are as they were (R24). -/
theorem State.push_slot (a : Word) (k : Fin 16) :
    (s.push a).stack[k.val] = if k = s.sp + 1 then a else s.stack[k.val] := by
  by_cases h : k = s.sp + 1
  · subst h; simp
  · have : (s.sp + 1).val ≠ k.val := fun e => h (Fin.ext e.symm)
    simp only [State.push_stack, if_neg h]
    exact Vector.getElem_set_ne _ _ this

/-- The slots after a pop: the vacated one holds 0, the others are as they were (R24). -/
theorem State.popPc_slot (k : Fin 16) :
    s.popPc.stack[k.val] = if k = s.sp then 0 else s.stack[k.val] := by
  by_cases h : k = s.sp
  · subst h; simp
  · have : s.sp.val ≠ k.val := fun e => h (Fin.ext e.symm)
    simp only [State.popPc_stack, if_neg h]
    exact Vector.getElem_set_ne _ _ this

end Sys2Proof.Machine
end

