-- ==== Sys2Proof/Laws/Screen.lean ====
section
/-!
SUPPORT. What setting a pixel does, and when two screens are equal (spec/10_state.md R27).
-/

namespace Sys2Proof.Machine

/-- A pixel after one pixel is set on the screen. -/
theorem Screen.lit_put (fb : Screen) (yy xx y x : Nat) (b : Bool) (hy : yy < 32) (hx : xx < 64) :
    (fb.put yy xx b).lit y x = if y = yy ∧ x = xx then b else fb.lit y x := by
  unfold Screen.put
  rw [dif_pos ⟨hy, hx⟩]
  unfold Screen.lit
  by_cases h : y < 32 ∧ x < 64
  · rw [dif_pos h, dif_pos h]
    by_cases e : y = yy
    · subst e
      by_cases f : x = xx
      · subst f; simp
      · have : xx ≠ x := Ne.symm f
        simp [f, Vector.getElem_set_ne, this]
    · have : yy ≠ y := Ne.symm e
      simp [e, Vector.getElem_set_ne, this]
  · rw [dif_neg h, dif_neg h, if_neg]
    rintro ⟨rfl, rfl⟩
    exact h ⟨hy, hx⟩

/-- Screens that show the same pixels are equal. -/
theorem Screen.eq_of_lit (fb fb' : Screen) (h : ∀ y x, y < 32 → x < 64 → fb.lit y x = fb'.lit y x) : fb = fb' := by
  refine Vector.ext fun y hy => Vector.ext fun x hx => ?_
  simpa [Screen.lit, hy, hx] using h y x hy hx

/-- Every pixel of the blank screen is unlit (R161). -/
@[simp] theorem Screen.lit_blank (y x : Nat) : Screen.lit blankScreen y x = false := by
  unfold Screen.lit blankScreen
  split <;> simp

end Sys2Proof.Machine
end

