-- ==== Sys2Proof/Laws/Step.lean ====
section
/-!
SUPPORT. What fetch, the end of a cycle and a step can do: proofs about steps cite these and do not unfold
the step.
-/

namespace Sys2Proof.Machine

variable {s t : State}

/-- Fetch fails exactly above 0xFFE; otherwise it sets `ir` and advances `pc` (R71, R72). -/
theorem State.fetch_cases (s : State) :
    (0xFFE < s.pc.toNat ∧ s.fetch = .error (.fetchOutOfRange s.pc)) ∨
      (s.pc.toNat ≤ 0xFFE ∧ s.fetch = .ok s.fetched) := by
  unfold State.fetch
  split
  · exact .inl ⟨‹_›, rfl⟩
  · exact .inr ⟨by omega, rfl⟩

/-- The start of a cycle: the timers on iteration 0 only, the gate bit, no report (R211, R212). -/
theorem State.beginCycle_eq (s : State) :
    s.beginCycle = { s with
      dt := if s.iter = 0 then tickDown s.dt else s.dt
      st := if s.iter = 0 then tickDown s.st else s.st
      vblank := decide (s.iter = 0)
      report := none } := by
  unfold State.beginCycle
  split <;> simp [State.updateTimers, *]

/-- The end of a cycle: an aborted tick stays as it is, an inner iteration counts up, the last one ends the
tick with the snapshot (R202, R210, R213). -/
theorem State.endCycle_cases (s : State) :
    ((∃ r, s.report = some r) ∧ s.endCycle = s) ∨
      (s.report = none ∧ s.iter + 1 < s.cfg.ipf.val ∧ s.endCycle = { s with iter := s.iter + 1 }) ∨
      (s.report = none ∧ s.cfg.ipf.val ≤ s.iter + 1 ∧
        s.endCycle = { s with keysPrev := s.keys, iter := 0, report := some .success }) := by
  unfold State.endCycle
  split
  · next r h => exact .inl ⟨⟨r, h⟩, rfl⟩
  · next h =>
    split
    · next hi => exact .inr (.inl ⟨h, hi, rfl⟩)
    · next hi => exact .inr (.inr ⟨h, by omega, rfl⟩)

/-- The start of a cycle leaves what fetch and decode read. -/
theorem State.beginCycle_reads (s : State) :
    s.beginCycle.pc = s.pc ∧ s.beginCycle.fetchedWord = s.fetchedWord ∧ s.beginCycle.cfg = s.cfg := by
  rw [State.beginCycle_eq]; exact ⟨rfl, rfl, rfl⟩

/-- A step whose fetch fails (R72, R203). -/
theorem step_of_fetch_error (h : 0xFFE < s.pc.toNat) :
    step s = .next (s.beginCycle.raise (.fetchOutOfRange s.pc)) := by
  obtain ⟨hpc, -, -⟩ := s.beginCycle_reads
  rcases s.beginCycle.fetch_cases with ⟨-, he⟩ | ⟨hle, -⟩
  · simp [step, runCycle, fetchExecute, he, hpc, State.endCycle]
  · rw [hpc] at hle; omega

/-- A step whose word does not decode (R73, R203). -/
theorem step_of_decode_error {e : DecodeError} (h : s.pc.toNat ≤ 0xFFE)
    (hd : decodeWord s.cfg.aliasPolicy s.fetchedWord = .error e) :
    step s = .next (s.beginCycle.fetched.raise (.invalidInstruction s.fetchedWord)) := by
  obtain ⟨hpc, hw, hc⟩ := s.beginCycle_reads
  rcases s.beginCycle.fetch_cases with ⟨hlt, -⟩ | ⟨-, he⟩
  · rw [hpc] at hlt; omega
  · simp [step, runCycle, fetchExecute, executeCurrent, he, State.fetched, hw, hc, hd, State.endCycle]

/-- A step that runs an instruction: its meaning, in the state after fetch, then the end of the cycle. -/
theorem step_of_decode_ok {i : Instr} (h : s.pc.toNat ≤ 0xFFE)
    (hd : decodeWord s.cfg.aliasPolicy s.fetchedWord = .ok i) :
    step s = match exec i s.beginCycle.fetched with
      | .next u => .next u.endCycle
      | .fault f => .fault f
      | .refused r => .refused r := by
  obtain ⟨hpc, hw, hc⟩ := s.beginCycle_reads
  rcases s.beginCycle.fetch_cases with ⟨hlt, -⟩ | ⟨-, he⟩
  · rw [hpc] at hlt; omega
  · have : executeCurrent s.beginCycle.fetched = exec i s.beginCycle.fetched := by
      simp only [executeCurrent, State.fetched, hw, hc, hd]
    simp only [step, runCycle, fetchExecute, he, this]
    cases exec i s.beginCycle.fetched with
    | next u => rfl
    | fault f => exact nomatch f
    | refused r => rfl

/-- Everything a step that answers a next state can do: fetch failed; the word did not decode; or it decoded
to an instruction whose meaning answered a state, of which the end of the cycle is taken. -/
theorem step_cases (h : step s = .next t) :
    (0xFFE < s.pc.toNat ∧ t = s.beginCycle.raise (.fetchOutOfRange s.pc)) ∨
    (s.pc.toNat ≤ 0xFFE ∧ ∃ e, decodeWord s.cfg.aliasPolicy s.fetchedWord = .error e ∧
      t = s.beginCycle.fetched.raise (.invalidInstruction s.fetchedWord)) ∨
    (s.pc.toNat ≤ 0xFFE ∧ ∃ i u, decodeWord s.cfg.aliasPolicy s.fetchedWord = .ok i ∧
      exec i s.beginCycle.fetched = .next u ∧ t = u.endCycle) := by
  rcases Nat.lt_or_ge 0xFFE s.pc.toNat with hlt | hle
  · rw [step_of_fetch_error hlt] at h
    exact .inl ⟨hlt, by simpa using h.symm⟩
  · cases hd : decodeWord s.cfg.aliasPolicy s.fetchedWord with
    | error e =>
      rw [step_of_decode_error hle hd] at h
      exact .inr (.inl ⟨hle, e, rfl, by simpa using h.symm⟩)
    | ok i =>
      rw [step_of_decode_ok hle hd] at h
      cases hx : exec i s.beginCycle.fetched with
      | next u => rw [hx] at h; exact .inr (.inr ⟨hle, i, u, rfl, hx, by simpa using h.symm⟩)
      | fault f => exact nomatch f
      | refused r => rw [hx] at h; simp at h

end Sys2Proof.Machine
end

