-- ==== Sys2Proof/Tests/Slice0.lean ====
section
/-!
SUPPORT. The model's own tests: well-formedness checks refuse ill-formed terms; every instruction decodes from
a word written out from spec/30_encoding.md R75 and R80; single executions whose results are those of
spec/95_test_vectors.md (the vector's id stands before each); and for each statement with hypotheses a state
that meets them.
-/

namespace Sys2Proof.Tests

open Sys2Proof Sys2Proof.Machine

/-! ### Helpers -/

/-- A machine with the glyphs at 0x050 and IPF = 5. -/
def labConfig : Config :=
  { ipf := ⟨5, by decide⟩, fontBase := 0x50, fontData := Config.conventionalFont, aliasPolicy := .execute }

/-- The state before an execute: the word was at 0x200, iteration 0 (spec/95_test_vectors.md section 0). -/
def lab : State := { State.initial labConfig with pc := 0x202, vblank := true }

/-- The lab machine with one cycle a tick. -/
def oneCycle : Config := { labConfig with ipf := ⟨1, by decide⟩ }

/-- The lab state with registers set. -/
def labV (l : List (Reg × Byte)) : State := l.foldl (fun s p => s.setV p.1 p.2) lab

/-- The lab state with bytes stored from an address. -/
def State.withBytes (s : State) (a : Nat) (l : List Byte) : State := s.writeBytes a l

/-- A check on the next state; false on any other answer. -/
def nextThen (r : Result) (p : State → Bool) : Bool :=
  match r with
  | .next t => p t
  | .fault _ => false
  | .refused _ => false

/-- The instruction answers the error, and `pc` and I stay. -/
def raises (i : Instr) (s : State) (e : ExecError) : Bool :=
  nextThen (exec i s) fun t => t.report == some (.failure e) && t.pc == s.pc && t.i == s.i && t.errorSeen

/-- A check on what the host is told and on the state after; false on a refusal. -/
def answers (op : HostOp) (s : State) (p : HostReply → State → Bool) : Bool :=
  match hostStep op s with
  | .next (r, t) => p r t
  | .fault _ => false
  | .refused _ => false

/-- A state between ticks with a word where the next fetch reads it. -/
def labAt (w : Nat) : State := (State.initial labConfig).withFetchWord 16 w

/-! ### Well-formedness -/

theorem test_fitsField_refuses : fitsField 4 16 = false ∧ fitsField 4 15 = true ∧ fitsField 8 256 = false ∧
    fitsField 12 4096 = false := by decide

theorem test_wellFormed_accepts_vf : (Instr.drw 15 15 15).wellFormed = true := by decide

theorem test_budgetOk_refuses : budgetOk 0 = false ∧ budgetOk (-1) = false ∧ budgetOk 1 = true := by decide

theorem test_imageFits_refuses :
    imageFits (List.replicate 3585 0) = false ∧ imageFits (List.replicate 3584 0) = true := by
  constructor <;> (unfold imageFits; rw [List.length_replicate]; rfl)

theorem test_keyOk_refuses : keyOk 16 = false ∧ keyOk 15 = true := by decide

theorem test_pixelOk_refuses : pixelOk 64 0 = false ∧ pixelOk (-1) 0 = false ∧ pixelOk 0 32 = false ∧
    pixelOk 0 (-1) = false ∧ pixelOk 63 31 = true := by decide

/-! ### Decode: one word of every instruction (R75, R80), and what is refused (R82, R84) -/

theorem test_decode_control :
    decodeTableWord 16 0x00EE = some .ret ∧ decodeTableWord 16 0x1234 = some (.jp 0x234) ∧
    decodeTableWord 16 0x2ABC = some (.call 0xABC) ∧ decodeTableWord 16 0xBFFE = some (.jpV0 0xFFE) ∧
    decodeTableWord 16 0x37F1 = some (.seImm 7 0xF1) ∧ decodeTableWord 16 0x481F = some (.sneImm 8 0x1F) ∧
    decodeTableWord 16 0x5120 = some (.seReg 1 2) ∧ decodeTableWord 16 0x9EF0 = some (.sneReg 14 15) := by
  decide

theorem test_decode_loads :
    decodeTableWord 16 0x6A05 = some (.ldImm 10 5) ∧ decodeTableWord 16 0x7BFF = some (.addImm 11 0xFF) ∧
    decodeTableWord 16 0x8230 = some (.ldReg 2 3) ∧ decodeTableWord 16 0xC10F = some (.rnd 1 0x0F) := by
  decide

theorem test_decode_alu :
    decodeTableWord 16 0x8121 = some (.orReg 1 2) ∧ decodeTableWord 16 0x8342 = some (.andReg 3 4) ∧
    decodeTableWord 16 0x8563 = some (.xorReg 5 6) ∧ decodeTableWord 16 0x8784 = some (.addReg 7 8) ∧
    decodeTableWord 16 0x89A5 = some (.subReg 9 10) ∧ decodeTableWord 16 0x8BC6 = some (.shr 11 12) ∧
    decodeTableWord 16 0x8DE7 = some (.subn 13 14) ∧ decodeTableWord 16 0x8F0E = some (.shl 15 0) := by
  decide

theorem test_decode_index_memory :
    decodeTableWord 16 0xA300 = some (.ldI 0x300) ∧ decodeTableWord 16 0xF41E = some (.addI 4) ∧
    decodeTableWord 16 0xF329 = some (.ldF 3) ∧ decodeTableWord 16 0xF533 = some (.ldB 5) ∧
    decodeTableWord 16 0xFC55 = some (.storeRegs 12) ∧ decodeTableWord 16 0xF165 = some (.loadRegs 1) := by
  decide

theorem test_decode_screen_keys_timers :
    decodeTableWord 16 0x00E0 = some .cls ∧ decodeTableWord 16 0xD12F = some (.drw 1 2 15) ∧
    decodeTableWord 16 0xE59E = some (.skp 5) ∧ decodeTableWord 16 0xE6A1 = some (.sknp 6) ∧
    decodeTableWord 16 0xF307 = some (.ldVxDt 3) ∧ decodeTableWord 16 0xF20A = some (.wkr 2) ∧
    decodeTableWord 16 0xF915 = some (.ldDtVx 9) ∧ decodeTableWord 16 0xFA18 = some (.ldStVx 10) := by
  decide

/-- X1 to X4. -/
theorem test_decode_refuses_invalid_words :
    [0x0000, 0x00E1, 0x0123, 0x00FD, 0xE000, 0xE19F, 0xF000, 0xF064, 0xF130, 0xF175, 0xFFFF, 0x8008, 0x8009,
      0x800F].all (fun w => decodeTableWord 16 w == none) = true := by decide

/-- J3, J21, J25, G21: alias words under both policies. -/
theorem test_decode_alias_words :
    decodeWord .execute 0x05EE = .ok .ret ∧ decodeWord .execute 0x5127 = .ok (.seReg 1 2) ∧
    decodeWord .execute 0x912F = .ok (.sneReg 1 2) ∧ decodeWord .execute 0x07E0 = .ok .cls ∧
    decodeWord .invalid 0x05EE = .error (.aliasWord 0x05EE) ∧ decodeWord .invalid 0x5120 = .ok (.seReg 1 2) ∧
    decodeWord .invalid 0x5127 = .error (.aliasWord 0x5127) := by decide

theorem test_decode_one_byte_is_refused : decodeBytes .execute [0x60] = .error .truncated := by decide

/-! ### Control transfer -/

/-- J1. -/
theorem test_ret_pops :
    nextThen (exec .ret (lab.push 0x0204)) (fun t => t.pc == 0x204 && t.sp == 0 && t.stack[1] == 0) = true := by
  decide

/-- J2. -/
theorem test_ret_underflow : raises .ret lab .stackUnderflow = true := by decide

/-- J4. -/
theorem test_jp : nextThen (exec (.jp 0x234) lab) (fun t => t.pc == 0x234) = true := by decide

/-- J8. -/
theorem test_call_last_slot :
    nextThen (exec (.call 0x300) { lab with pc := 0x204, sp := 14 })
      (fun t => t.pc == 0x300 && t.sp == 15 && t.stack[15] == 0x204) = true := by decide

/-- J9. -/
theorem test_call_overflow : raises (.call 0x300) { lab with sp := 15 } .stackOverflow = true := by decide

/-- J11. -/
theorem test_jpV0_not_masked :
    nextThen (exec (.jpV0 0xFFF) (labV [(0, 0xFF)])) (fun t => t.pc == 0x10FE) = true := by decide

/-- J12. -/
theorem test_jpV0_uses_v0 :
    nextThen (exec (.jpV0 0x300) (labV [(3, 9)])) (fun t => t.pc == 0x300) = true := by decide

/-- J13, J14. -/
theorem test_seImm : nextThen (exec (.seImm 2 0x2A) (labV [(2, 0x2A)])) (fun t => t.pc == 0x204) = true ∧
    nextThen (exec (.seImm 2 0x2A) (labV [(2, 0x2B)])) (fun t => t.pc == 0x202) = true := by decide

/-- J26. -/
theorem test_seImm_at_the_end :
    nextThen (exec (.seImm 0 0) { lab with pc := 0x1000 }) (fun t => t.pc == 0x1002) = true := by decide

/-- J16, J17. -/
theorem test_sneImm : nextThen (exec (.sneImm 2 0x2A) (labV [(2, 0x2A)])) (fun t => t.pc == 0x202) = true ∧
    nextThen (exec (.sneImm 2 0x2A) lab) (fun t => t.pc == 0x204) = true := by decide

/-- J18, J19. -/
theorem test_seReg : nextThen (exec (.seReg 1 2) (labV [(1, 7), (2, 7)])) (fun t => t.pc == 0x204) = true ∧
    nextThen (exec (.seReg 1 2) (labV [(1, 7), (2, 8)])) (fun t => t.pc == 0x202) = true := by decide

/-- J22, J24. -/
theorem test_sneReg : nextThen (exec (.sneReg 1 2) (labV [(1, 7), (2, 8)])) (fun t => t.pc == 0x204) = true ∧
    nextThen (exec (.sneReg 3 3) (labV [(3, 9)])) (fun t => t.pc == 0x202) = true := by decide

/-! ### Load, ALU, random -/

/-- A2. -/
theorem test_ldImm_vf : nextThen (exec (.ldImm 15 0xFF) lab) (fun t => t.getV 15 == 0xFF) = true := by decide

/-- A4. -/
theorem test_addImm_wraps_no_flag :
    nextThen (exec (.addImm 0 1) (labV [(0, 0xFF)])) (fun t => t.getV 0 == 0 && t.getV 15 == 0) = true := by decide

/-- A5. -/
theorem test_addImm_vf : nextThen (exec (.addImm 15 2) (labV [(15, 0xFF)])) (fun t => t.getV 15 == 1) = true := by
  decide

/-- A6. -/
theorem test_ldReg : nextThen (exec (.ldReg 2 3) (labV [(3, 0x9C)])) (fun t => t.getV 2 == 0x9C) = true := by decide

/-- A7, A11. -/
theorem test_orReg :
    nextThen (exec (.orReg 1 2) (labV [(1, 0x0C), (2, 0x0A), (15, 1)])) (fun t => t.getV 1 == 0x0E && t.getV 15 == 0)
      = true ∧
    nextThen (exec (.orReg 1 15) (labV [(1, 0x0C), (15, 0x0A)])) (fun t => t.getV 1 == 0x0E && t.getV 15 == 0)
      = true := by decide

/-- A8, A10. -/
theorem test_andReg :
    nextThen (exec (.andReg 1 2) (labV [(1, 0x0C), (2, 0x0A), (15, 1)])) (fun t => t.getV 1 == 0x08 && t.getV 15 == 0)
      = true ∧
    nextThen (exec (.andReg 15 2) (labV [(2, 0x0A), (15, 0x0C)])) (fun t => t.getV 15 == 0) = true := by decide

/-- A9, A12. -/
theorem test_xorReg :
    nextThen (exec (.xorReg 1 2) (labV [(1, 0x0C), (2, 0x0A), (15, 1)])) (fun t => t.getV 1 == 0x06 && t.getV 15 == 0)
      = true ∧
    nextThen (exec (.xorReg 1 1) (labV [(1, 0x5A), (15, 1)])) (fun t => t.getV 1 == 0 && t.getV 15 == 0) = true := by
  decide

/-- A16, A17. -/
theorem test_addReg :
    nextThen (exec (.addReg 1 2) (labV [(1, 0xFF), (2, 0xFF)])) (fun t => t.getV 1 == 0xFE && t.getV 15 == 1) = true ∧
    nextThen (exec (.addReg 1 2) (labV [(1, 0x80), (2, 0x7F), (15, 1)])) (fun t => t.getV 1 == 0xFF && t.getV 15 == 0)
      = true := by decide

/-- A19, A22. -/
theorem test_addReg_vf :
    nextThen (exec (.addReg 15 2) (labV [(15, 0xF0), (2, 0x20)])) (fun t => t.getV 15 == 1) = true ∧
    nextThen (exec (.addReg 15 15) (labV [(15, 0x80)])) (fun t => t.getV 15 == 1) = true := by decide

/-- A23, A26. -/
theorem test_subReg :
    nextThen (exec (.subReg 1 2) (labV [(1, 0x10), (2, 0x20), (15, 1)])) (fun t => t.getV 1 == 0xF0 && t.getV 15 == 0)
      = true ∧
    nextThen (exec (.subReg 1 2) (labV [(1, 0x33)])) (fun t => t.getV 1 == 0x33 && t.getV 15 == 1) = true := by decide

/-- A30, A32. -/
theorem test_subReg_vf :
    nextThen (exec (.subReg 15 2) (labV [(15, 5), (2, 3)])) (fun t => t.getV 15 == 1) = true ∧
    nextThen (exec (.subReg 1 15) (labV [(1, 5), (15, 1)])) (fun t => t.getV 1 == 4 && t.getV 15 == 1) = true := by
  decide

/-- A39, A44. -/
theorem test_shr :
    nextThen (exec (.shr 1 2) (labV [(1, 0xAA), (2, 5)])) (fun t => t.getV 1 == 2 && t.getV 2 == 5 && t.getV 15 == 1)
      = true ∧
    nextThen (exec (.shr 1 15) (labV [(15, 3)])) (fun t => t.getV 1 == 1 && t.getV 15 == 1) = true := by decide

/-- A34, A35. -/
theorem test_subn :
    nextThen (exec (.subn 1 2) (labV [(1, 0x20), (2, 0x10), (15, 1)])) (fun t => t.getV 1 == 0xF0 && t.getV 15 == 0)
      = true ∧
    nextThen (exec (.subn 1 2) (labV [(2, 0x44)])) (fun t => t.getV 1 == 0x44 && t.getV 15 == 1) = true := by decide

/-- A45, A46. -/
theorem test_shl :
    nextThen (exec (.shl 1 2) (labV [(2, 0xC1)])) (fun t => t.getV 1 == 0x82 && t.getV 15 == 1) = true ∧
    nextThen (exec (.shl 1 2) (labV [(2, 0x40), (15, 1)])) (fun t => t.getV 1 == 0x80 && t.getV 15 == 0) = true := by
  decide

/-- A52: whatever the draw. -/
theorem test_rnd_mask_zero : nextThen (exec (.rnd 1 0) (labV [(1, 7)])) (fun t => t.getV 1 == 0) = true := by
  simp [exec, execRnd, nextThen, State.getV, State.setV]

/-! ### Index and memory -/

/-- M2. -/
theorem test_ldI : nextThen (exec (.ldI 0xFFF) { lab with i := 0x1234 }) (fun t => t.i == 0x0FFF) = true := by decide

/-- M4, M5. -/
theorem test_addI :
    nextThen (exec (.addI 4) ({ lab with i := 0x0FFF }.setV 4 1)) (fun t => t.i == 0x1000 && t.getV 15 == 0) = true ∧
    nextThen (exec (.addI 4) ({ lab with i := 0xFFFF }.setV 4 2)) (fun t => t.i == 1) = true := by decide

/-- M9 with glyphs at 0x050. -/
theorem test_ldF : nextThen (exec (.ldF 3) (labV [(3, 0x1A)])) (fun t => t.i == 0x0082) = true := by decide

/-- S2. -/
theorem test_ldB :
    nextThen (exec (.ldB 5) ({ lab with i := 0x300 }.setV 5 205)) (fun t => t.readByte 0x300 == 2 &&
      t.readByte 0x301 == 0 && t.readByte 0x302 == 5 && t.readByte 0x303 == 0 && t.i == 0x300) = true := by decide

/-- M17, M18. -/
theorem test_ldB_out_of_range :
    raises (.ldB 5) { lab with i := 0xFFE } (.addressOutOfRange 0x1000) = true ∧
    raises (.ldB 5) { lab with i := 0xFFFF } (.addressOutOfRange 0xFFFF) = true := by decide

/-- M19. -/
theorem test_storeRegs :
    nextThen (exec (.storeRegs 2) { labV [(0, 0x11), (1, 0x22), (2, 0x33), (3, 0x44)] with i := 0x400 })
      (fun t => t.mem == [(0x400, 0x11), (0x401, 0x22), (0x402, 0x33)] && t.i == 0x403) = true := by decide

/-- M22. -/
theorem test_storeRegs_out_of_range :
    raises (.storeRegs 15) { lab with i := 0xFF1 } (.addressOutOfRange 0x1000) = true := by decide

/-- M25. -/
theorem test_loadRegs :
    nextThen (exec (.loadRegs 1) ((State.withBytes { lab with i := 0x400 } 0x400 [0xAB, 0xCD, 0xEF]).setV 2 0x55))
      (fun t => t.getV 0 == 0xAB && t.getV 1 == 0xCD && t.getV 2 == 0x55 && t.i == 0x402) = true := by decide

/-- M27. -/
theorem test_loadRegs_out_of_range :
    raises (.loadRegs 1) { lab with i := 0xFFF } (.addressOutOfRange 0x1000) = true := by decide

/-! ### Screen -/

/-- The lab state of the draw vectors: I = 0x300, the given sprite rows there. -/
def labSprite (rows : List Byte) (v0 v1 : Byte) : State :=
  State.withBytes { labV [(0, v0), (1, v1)] with i := 0x300 } 0x300 rows

/-- G1. -/
theorem test_drw_clips_right :
    nextThen (exec (.drw 0 1 1) (labSprite [0xF0] 62 31)) (fun t => t.fb.lit 31 62 && t.fb.lit 31 63 &&
      !t.fb.lit 31 0 && !t.fb.lit 0 0 && t.getV 15 == 0) = true := by decide

/-- G10. -/
theorem test_drw_collides :
    nextThen (exec (.drw 0 1 1) ((labSprite [0xC0] 5 6).setFb (blankScreen.put 6 6 true)))
      (fun t => t.fb.lit 6 5 && !t.fb.lit 6 6 && t.getV 15 == 1) = true := by decide

/-- G4: the gate. -/
theorem test_drw_gated :
    nextThen (exec (.drw 0 1 1) { (labSprite [0xF0] 62 31).setV 15 1 with vblank := false })
      (fun t => !t.fb.lit 31 62 && t.getV 15 == 1 && t.pc == 0x200) = true := by decide

/-- G14. -/
theorem test_drw_out_of_range :
    raises (.drw 0 1 2) { lab with i := 0xFFF } (.addressOutOfRange 0x1000) = true := by decide

/-- G19. -/
theorem test_cls : nextThen (exec .cls (lab.setFb (blankScreen.put 31 63 true)))
    (fun t => !t.fb.lit 31 63 && t.pc == 0x202) = true := by decide

/-- G20. -/
theorem test_cls_gated : nextThen (exec .cls { lab.setFb (blankScreen.put 31 63 true) with vblank := false })
    (fun t => t.fb.lit 31 63 && t.pc == 0x200) = true := by decide

/-! ### Keys and timers -/

/-- The lab state with V[x], K and KP set for one key. -/
def labKey (x : Reg) (v : Byte) (k : Fin 16) (now before : Bool) : State :=
  { lab.setV x v with keys := lab.keys.set k.val now, keysPrev := lab.keysPrev.set k.val before }

/-- K1, K3. -/
theorem test_skp :
    nextThen (exec (.skp 5) (labKey 5 10 10 true false)) (fun t => t.pc == 0x204) = true ∧
    nextThen (exec (.skp 5) (labKey 5 10 10 false true)) (fun t => t.pc == 0x202) = true := by decide

/-- K5. -/
theorem test_skp_out_of_range :
    raises (.skp 5) (labKey 5 0x1A 10 true false) (.keyIndexOutOfRange 0x1A) = true := by decide

/-- K6, K7. -/
theorem test_sknp :
    nextThen (exec (.sknp 5) (labKey 5 10 10 false false)) (fun t => t.pc == 0x204) = true ∧
    nextThen (exec (.sknp 5) (labKey 5 10 10 true false)) (fun t => t.pc == 0x202) = true := by decide

/-- K8. -/
theorem test_sknp_out_of_range : raises (.sknp 5) (labV [(5, 0xFF)]) (.keyIndexOutOfRange 0xFF) = true := by decide

/-- K9 to K12. -/
theorem test_wkr :
    nextThen (exec (.wkr 2) (labKey 2 7 7 false true)) (fun t => t.pc == 0x202 && t.getV 2 == 7) = true ∧
    nextThen (exec (.wkr 2) (labKey 2 7 7 true true)) (fun t => t.pc == 0x200) = true ∧
    nextThen (exec (.wkr 2) (labKey 2 7 7 true false)) (fun t => t.pc == 0x200) = true ∧
    nextThen (exec (.wkr 2) (labKey 2 7 7 false false)) (fun t => t.pc == 0x200) = true := by decide

/-- K13, K14. -/
theorem test_wkr_other_key :
    nextThen (exec (.wkr 2) (labKey 2 7 3 false true)) (fun t => t.pc == 0x200) = true ∧
    raises (.wkr 2) (labV [(2, 16)]) (.keyIndexOutOfRange 16) = true := by decide

/-- K15. -/
theorem test_ldVxDt :
    nextThen (exec (.ldVxDt 3) { lab with dt := 0x3C }) (fun t => t.getV 3 == 0x3C && t.dt == 0x3C) = true := by decide

/-- K19. -/
theorem test_ldDtVx : nextThen (exec (.ldDtVx 3) (labV [(3, 0xFF)])) (fun t => t.dt == 0xFF && t.st == 0) = true := by
  decide

/-- K20. -/
theorem test_ldStVx : nextThen (exec (.ldStVx 3) (labV [(3, 5)])) (fun t => t.st == 5 && t.dt == 0) = true := by decide

/-! ### The step -/

/-- R70 to R73, R211, R212: the first instruction after reset, placed by `withFetchWord`. -/
theorem test_step_from_reset :
    nextThen (step (State.reset.withFetchWord 16 0x6005)) (fun t => t.getV 0 == 5 && t.pc == 0x202 &&
      t.ir == 0x6005 && t.iter == 1 && t.vblank && t.report == none) = true := by decide

/-- X5: the last address a fetch allows. -/
theorem test_step_last_address :
    nextThen (step (State.withFetchWord { State.initial labConfig with pc := 0xFFE } 16 0x6005))
      (fun t => t.getV 0 == 5 && t.pc == 0x1000) = true := by decide

/-- X6. -/
theorem test_step_fetch_out_of_range :
    nextThen (step { State.initial labConfig with pc := 0xFFF }) (fun t => t.pc == 0xFFF && t.ir == 0 &&
      t.report == some (.failure (.fetchOutOfRange 0xFFF)) && t.vblank && t.errorSeen) = true := by decide

/-- X7: an odd address. -/
theorem test_step_odd_address :
    nextThen (step (State.withFetchWord { State.initial labConfig with pc := 0x201 } 16 0x6005))
      (fun t => t.getV 0 == 5 && t.pc == 0x203) = true := by decide

/-- T2, tick 1, iteration 1: the error ends the tick, no snapshot is taken. -/
theorem test_step_invalid_word :
    nextThen (step { State.initial labConfig with iter := 1, dt := 4, keys := lab.keys.set 3 true })
      (fun t => t.report == some (.failure (.invalidInstruction 0)) && t.pc == 0x202 && t.iter == 0 && t.dt == 4 &&
        !t.keysPrev[3]) = true := by decide

/-- T1: the timer phase of a tick of one cycle, and the snapshot after it (R213). -/
theorem test_step_timers_and_snapshot :
    nextThen (step { labAt 0x1200 with cfg := oneCycle, dt := 2, st := 1, keys := lab.keys.set 3 true })
      (fun t => t.dt == 1 && t.st == 0 && t.keysPrev[3] && t.report == some .success && t.iter == 0) = true := by decide

/-! ### The host -/

/-- S1b: with IPF = 5 the third cycle fetches 0x0000 and the tick fails. -/
theorem test_tick_S1b :
    answers .tickFrame (State.withBytes (State.initial labConfig) 0x200 [0x60, 0x05, 0x70, 0x03])
      (fun r t => r == .failure && t.getV 0 == 8 && t.pc == 0x206 && t.ir == 0) = true := by decide

/-- R222, R223: the last key and pixel, and the first beyond them. -/
theorem test_host_bounds :
    answers (.setKeyState 15 true) lab (fun r t => r == .success && t.keys[15] && !t.keysPrev[15]) = true ∧
    answers (.setKeyState 16 true) lab (fun r t => r == .failure && t.keys == lab.keys) = true ∧
    answers (.getPixel 63 31) (lab.setFb (blankScreen.put 31 63 true)) (fun r _ => r == .pixel true) = true ∧
    answers (.getPixel 64 31) lab (fun r _ => r == .failure) = true := by decide

/-! ### States that meet the statements' hypotheses -/

theorem witness_DecodedWordReencodes :
    decodeWord .execute 0x512A = .ok (.seReg 1 2) ∧ decodeWord .execute 0x8120 = .ok (.ldReg 1 2) := by decide

theorem witness_InvalidWords :
    decodeWord .invalid 0x0000 = .error (.invalidWord 0x0000) ∧ decodeWord .execute 0x800F = .error (.invalidWord 0x800F) ∧
    decodeWord .execute 0xEF9F = .error (.invalidWord 0xEF9F) ∧ decodeWord .execute 0xF066 = .error (.invalidWord 0xF066) := by
  decide

theorem witness_AliasWords :
    decodeWord .execute 0x0FEE = .ok .ret ∧ 0x0FEE#16 &&& (rowOf .ret).canon ≠ (rowOf .ret).pattern ∧
    decodeWord .execute 0x00EE = .ok .ret ∧ 0x00EE#16 &&& (rowOf .ret).canon = (rowOf .ret).pattern := by decide

theorem witness_WordsDecodeTo :
    0x0FEE#16 &&& 0xF0FF#16 = 0x00EE#16 ∧ 0x512F#16 &&& 0xF000#16 = 0x5000#16 ∧ 0x8FF4#16 &&& 0xF00F#16 = 0x8004#16 ∧
    0xFF65#16 &&& 0xF0FF#16 = 0xF065#16 := by decide

theorem witness_ResetAndInitialize :
    lab.iter = 0 ∧ (0 : Int) < 1 ∧ (0 : Int) ≤ 0 ∧ (∀ n, HostOp.resetOp ≠ .initializeOp n) ∧
    hostStep .resetOp lab = .next (.success, lab.restart lab.cfg) :=
  ⟨rfl, by decide, by decide, fun _ h => (by cases h), rfl⟩

/-- A state of the invariant's kind with an instruction placed. -/
theorem labAt_inv : (labAt 0x6005).Inv where
  memCanonical := by decide
  stack := ⟨by decide, by decide⟩
  pcBound := by decide
  tick := ⟨by decide, fun h => absurd rfl h⟩
  mark := fun _ h => by cases h

theorem witness_StepKeepsTheInvariant : (labAt 0x6005).Inv ∧ ∃ t, step (labAt 0x6005) = .next t :=
  ⟨labAt_inv, _, rfl⟩

theorem witness_HostOperationsKeepTheInvariant :
    (labAt 0x6005).Inv ∧ ∃ r t, hostStep (.setKeyState 15 true) (labAt 0x6005) = .next (r, t) :=
  ⟨labAt_inv, _, _, rfl⟩

theorem witness_StepRunsTheDecodedInstruction :
    (labAt 0x6005).pc.toNat ≤ 0xFFE ∧
    decodeBytes (labAt 0x6005).cfg.aliasPolicy [(labAt 0x6005).readByte (labAt 0x6005).pc.toNat,
      (labAt 0x6005).readByte ((labAt 0x6005).pc.toNat + 1)] = .ok (.ldImm 0 5, []) ∧
    ∀ s, ∃ u, exec (.ldImm 0 5) s = .next u :=
  ⟨by decide, by decide, fun _ => ⟨_, rfl⟩⟩

theorem witness_Fetch :
    (0xFFE : Word).toNat ≤ 0xFFE ∧ 0xFFE < (0xFFF : Word).toNat ∧ 0xFFE < (0xFFFF : Word).toNat := by decide

theorem witness_InvalidWordFailsTheTick :
    (labAt 0).pc.toNat ≤ 0xFFE ∧
    decodeWord (labAt 0).cfg.aliasPolicy (wordOfBytes ((labAt 0).readByte (labAt 0).pc.toNat)
      ((labAt 0).readByte ((labAt 0).pc.toNat + 1))) = .error (.invalidWord 0) := by decide

/-- Each error of R200 that an instruction raises, at the boundary. -/
theorem witness_ErrorsArePrecise :
    lab.report = none ∧ raises .ret lab .stackUnderflow = true ∧
    raises (.call 0) { lab with sp := 15 } .stackOverflow = true ∧
    raises (.skp 0) (labV [(0, 16)]) (.keyIndexOutOfRange 16) = true ∧
    raises (.sknp 0) (labV [(0, 16)]) (.keyIndexOutOfRange 16) = true ∧
    raises (.wkr 0) (labV [(0, 16)]) (.keyIndexOutOfRange 16) = true ∧
    raises (.ldB 0) { lab with i := 0xFFE } (.addressOutOfRange 0x1000) = true ∧
    raises (.storeRegs 0) { lab with i := 0x1000 } (.addressOutOfRange 0x1000) = true ∧
    raises (.loadRegs 15) { lab with i := 0xFF1 } (.addressOutOfRange 0x1000) = true ∧
    raises (.drw 0 1 1) { lab with i := 0x1000 } (.addressOutOfRange 0x1000) = true := by decide

/-- The three ends of a cycle: an error, an inner iteration, the last iteration. -/
theorem witness_TickHasIpfIterationsOrFails :
    nextThen (step (labAt 0)) (fun t => t.report != none && t.report != some .success) = true ∧
    nextThen (step (labAt 0x6005)) (fun t => t.report == none) = true ∧
    nextThen (step { labAt 0x6005 with iter := 4 }) (fun t => t.report == some .success && t.iter == 0) = true := by
  decide

theorem witness_TimersGoDownOncePerTick :
    (∃ t, step (labAt 0x6005) = .next t) ∧ (∃ t, step { labAt 0x6005 with iter := 1 } = .next t) ∧
    (∀ x, decodeWord (labAt 0x6005).cfg.aliasPolicy (labAt 0x6005).fetchedWord ≠ .ok (.ldDtVx x)) ∧
    ∀ x, decodeWord (labAt 0x6005).cfg.aliasPolicy (labAt 0x6005).fetchedWord ≠ .ok (.ldStVx x) :=
  ⟨⟨_, rfl⟩, ⟨_, rfl⟩, by decide, by decide⟩

theorem witness_TickFrameIsItsSteps : (labAt 0x1200).iter = 0 := rfl

theorem witness_RegistersKeepTheirValue :
    writesReg (.addReg 1 2) 3 = false ∧ writesReg (.loadRegs 14) 15 = false ∧ writesReg .cls 15 = false ∧
    ∃ t, exec (.addReg 1 2) lab = .next t := ⟨by decide, by decide, by decide, _, rfl⟩

theorem witness_OtherStateChanges :
    Part.index ∉ partsWritten (.addReg 1 2) ∧ Part.pc ∉ partsWritten (.addReg 1 2) ∧
    Part.stack ∉ partsWritten (.jp 0) ∧ Part.delayTimer ∉ partsWritten (.ldStVx 0) ∧
    Part.soundTimer ∉ partsWritten (.ldDtVx 0) ∧ Part.screen ∉ partsWritten (.addReg 1 2) ∧
    Part.draws ∉ partsWritten .cls ∧ ({ lab with vblank := false } : State).vblank = false := by decide

theorem witness_MemoryOutsideTheStoredBytes :
    ¬ (State.atI { lab with i := 0x300 } 0 ≤ 0x2FF ∧ 0x2FF < State.atI { lab with i := 0x300 } 0 + storedLen (.ldB 5)) ∧
    ¬ (State.atI { lab with i := 0x300 } 0 ≤ 0x303 ∧ 0x303 < State.atI { lab with i := 0x300 } 0 + storedLen (.ldB 5)) ∧
    ¬ (State.atI lab 0 ≤ 0 ∧ 0 < State.atI lab 0 + storedLen .cls) := by decide

theorem witness_InstructionsReadOnly :
    Instr.jp 0 ≠ .cls ∧ (∀ x y n, Instr.jp 0 ≠ .drw x y n) ∧ (∀ x, Instr.jp 0 ≠ .wkr x) ∧
    (∀ x, Instr.jp 0 ≠ .skp x ∧ Instr.jp 0 ≠ .sknp x ∧ Instr.jp 0 ≠ .wkr x) ∧
    (∀ x, Instr.jp 0 ≠ .ldVxDt x ∧ Instr.jp 0 ≠ .ldDtVx x) ∧ ∀ x, Instr.jp 0 ≠ .ldStVx x :=
  ⟨nofun, nofun, nofun, fun _ => ⟨nofun, nofun, nofun⟩, fun _ => ⟨nofun, nofun⟩, nofun⟩

theorem witness_CallAndReturn :
    ({ lab with sp := 14 } : State).sp.val < 15 ∧ ({ lab with sp := 15 } : State).sp.val = 15 ∧
    0 < ({ lab with sp := 1 } : State).sp.val ∧ lab.sp.val = 0 := by decide

theorem witness_CallThenReturnResumes : ({ lab with sp := 14 } : State).stackInv ∧ lab.stackInv ∧ lab.sp.val < 15 :=
  ⟨⟨by decide, by decide⟩, ⟨by decide, by decide⟩, by decide⟩

theorem witness_DecimalDigits :
    Memory.wf lab.cfg lab.mem = true ∧ (0xFFD : Word).toNat ≤ 0xFFD ∧ 0xFFD < (0xFFE : Word).toNat := by decide

theorem witness_StoreAndLoadRegisters :
    Memory.wf lab.cfg [(0x400, 0x11), (0x401, 0x22)] = true ∧ (0xFF0 : Word).toNat + (15 : Reg).val ≤ 0xFFF ∧
    0xFFF < (0xFF1 : Word).toNat + (15 : Reg).val ∧ 0xFFF < (0x1000 : Word).toNat + (0 : Reg).val := by decide

theorem witness_StoreThenLoadRestores :
    Memory.wf lab.cfg lab.mem = true ∧ (0xFF0 : Word).toNat + (15 : Reg).val ≤ 0xFFF ∧
    (0xFE0 : Word).toNat + 2 * (15 : Reg).val + 1 ≤ 0xFFF := by decide

theorem witness_StoredCodeIsFetched :
    Memory.wf lab.cfg lab.mem = true ∧ (14 : Fin 15).val + 1 ≤ (15 : Reg).val ∧
    (0xFF0 : Word).toNat + (15 : Reg).val ≤ 0xFFF ∧ (0xFFD : Word).toNat ≤ 0xFFD := by decide

theorem witness_GatedScreenInstructionsRetry :
    ({ labAt 0x00E0 with iter := 1 } : State).pc.toNat ≤ 0xFFE ∧ ({ labAt 0x00E0 with iter := 1 } : State).iter ≠ 0 ∧
    decodeWord .execute (State.fetchedWord { labAt 0x00E0 with iter := 1 }) = .ok .cls ∧
    decodeWord .execute (State.fetchedWord { labAt 0xD011 with iter := 4 }) = .ok (.drw 0 1 1) := by decide

theorem witness_ClearAndDraw :
    lab.vblank = true ∧ ({ lab with vblank := false } : State).vblank = false ∧
    ((0 : Fin 16).val = 0 ∨ (0x2000 : Word).toNat + (0 : Fin 16).val ≤ 0x1000) ∧
    ((15 : Fin 16).val = 0 ∨ (0xFF1 : Word).toNat + (15 : Fin 16).val ≤ 0x1000) ∧
    0 < (15 : Fin 16).val ∧ 0xFFF < (0xFF2 : Word).toNat + (15 : Fin 16).val - 1 ∧
    (0 : Reg) ≠ 15 ∧ (1 : Reg) ≠ 15 := by decide

theorem witness_KeyInstructions :
    (State.getV (labKey 5 15 15 true true) 5).toNat = (15 : Fin 16).val ∧
    15 < (State.getV (labKey 5 16 15 true true) 5).toNat ∧
    (labKey 2 7 7 false true).keysPrev[7] = true ∧ (labKey 2 7 7 false true).keys[7] = false ∧
    ((labKey 2 7 7 true true).keysPrev[7] = false ∨ (labKey 2 7 7 true true).keys[7] = true) := by decide

theorem witness_LoadProgram : lab.iter = 0 ∧ Memory.wf lab.cfg lab.mem = true := by decide

theorem witness_KeyPixelAndSound :
    15 ≤ 15 ∧ 15 < 16 ∧ (-1 : Int) < 0 ∧
    (63 : Int) < 64 ∧ (31 : Int) < 32 ∧ lab.iter = 0 := by decide

theorem witness_HostOperationsRunBetweenTicksOnly :
    lab.iter = 0 ∧ ({ lab with iter := 1 } : State).iter ≠ 0 := by decide

/-- Both results are met: a tick that succeeds and one that fails. -/
theorem witness_TickFrameTellsSuccessOrFailure :
    ({ labAt 0x1200 with cfg := oneCycle } : State).iter = 0 ∧ (labAt 0x0000).iter = 0 ∧
    answers .tickFrame { labAt 0x1200 with cfg := oneCycle } (fun r t => r == .success && t.report == some .success)
      = true ∧
    answers .tickFrame (labAt 0x0000) (fun r t => r == .failure && t.report == some (.failure (.invalidInstruction 0)))
      = true := by decide

end Sys2Proof.Tests
end

/-! ## What an instruction can do

SUPPORT. `Effect i s t`: the ways in which instruction `i` can lead from `s` to `t`, each with what the writer
tables of spec/10_state.md R20 to R29 say of it. `exec_answers` proves once that every meaning has such an effect;
the frame statements and the invariant are read off it, and do not unfold the meanings. -/

namespace Sys2Proof.Machine

/-! ### The branching meanings, an equation per branch -/

section Branches

variable {s : State} {x y : Reg}

theorem exec_cls_of_vblank (h : s.vblank = true) : exec .cls s = .next (s.setFb blankScreen) := if_pos h

theorem exec_cls_of_gated (h : s.vblank = false) : exec .cls s = .next s.retry :=
  if_neg (Bool.eq_false_iff.mp h)

theorem exec_ret_of_empty (h : s.sp = 0) : exec .ret s = .next (s.raise .stackUnderflow) := if_pos h

theorem exec_ret_of_ne (h : s.sp ≠ 0) : exec .ret s = .next s.popPc := if_neg h

theorem exec_call_of_full {nnn : BitVec 12} (h : s.sp = 15) :
    exec (.call nnn) s = .next (s.raise .stackOverflow) := if_pos h

theorem exec_call_of_ne {nnn : BitVec 12} (h : s.sp ≠ 15) :
    exec (.call nnn) s = .next ((s.push s.pc).setPc (addrOperand nnn)) := if_neg h

theorem exec_drw_of_gated {n : Fin 16} (h : s.vblank = false) : exec (.drw x y n) s = .next s.retry :=
  if_neg (Bool.eq_false_iff.mp h)

theorem exec_drw_of_error {n : Fin 16} {e : ExecError} (h : s.vblank = true) (hr : s.rangeAtI n.val = some e) :
    exec (.drw x y n) s = .next (s.raise e) := by
  simp only [exec, execDrw, h, hr, if_true]

theorem exec_drw_of_range {n : Fin 16} (h : s.vblank = true) (hr : s.rangeAtI n.val = none) :
    exec (.drw x y n) s = .next
      ((s.setFb (s.drawSprite ((s.getV x).toNat % screenW) ((s.getV y).toNat % screenH) n.val).1).setV vf
        (flagOf (s.drawSprite ((s.getV x).toNat % screenW) ((s.getV y).toNat % screenH) n.val).2)) := by
  simp only [exec, execDrw, h, hr, if_true]

theorem exec_skp_of_no_key (h : keyOperand (s.getV x) = none) :
    exec (.skp x) s = .next (s.raise (.keyIndexOutOfRange (s.getV x))) := by
  simp only [exec, execSkp, h]

theorem exec_skp_of_key {k : Fin 16} (h : keyOperand (s.getV x) = some k) :
    exec (.skp x) s = .next (s.skipIf s.keys[k.val]) := by
  simp only [exec, execSkp, h]

theorem exec_sknp_of_no_key (h : keyOperand (s.getV x) = none) :
    exec (.sknp x) s = .next (s.raise (.keyIndexOutOfRange (s.getV x))) := by
  simp only [exec, execSknp, h]

theorem exec_sknp_of_key {k : Fin 16} (h : keyOperand (s.getV x) = some k) :
    exec (.sknp x) s = .next (s.skipIf (!s.keys[k.val])) := by
  simp only [exec, execSknp, h]

theorem exec_wkr_of_no_key (h : keyOperand (s.getV x) = none) :
    exec (.wkr x) s = .next (s.raise (.keyIndexOutOfRange (s.getV x))) := by
  simp only [exec, execWkr, h]

theorem exec_wkr_of_release {k : Fin 16} (h : keyOperand (s.getV x) = some k)
    (hk : (s.keysPrev[k.val] && !s.keys[k.val]) = true) : exec (.wkr x) s = .next s := by
  simp only [exec, execWkr, h, if_pos hk]

theorem exec_wkr_of_wait {k : Fin 16} (h : keyOperand (s.getV x) = some k)
    (hk : ¬ (s.keysPrev[k.val] && !s.keys[k.val]) = true) : exec (.wkr x) s = .next s.retry := by
  simp only [exec, execWkr, h, if_neg hk]

theorem exec_ldB_of_error {e : ExecError} (h : s.rangeAtI 3 = some e) : exec (.ldB x) s = .next (s.raise e) := by
  simp only [exec, execLdB, h]

theorem exec_ldB_of_range (h : s.rangeAtI 3 = none) :
    exec (.ldB x) s = .next (s.writeBytes (s.atI 0) (decimalDigits (s.getV x))) := by
  simp only [exec, execLdB, h]

theorem exec_storeRegs_of_error {e : ExecError} (h : s.rangeAtI (x.val + 1) = some e) :
    exec (.storeRegs x) s = .next (s.raise e) := by
  simp only [exec, execStoreRegs, h]

theorem exec_storeRegs_of_range (h : s.rangeAtI (x.val + 1) = none) :
    exec (.storeRegs x) s = .next ((s.writeBytes (s.atI 0) (s.regsUpTo x)).advanceI (x.val + 1)) := by
  simp only [exec, execStoreRegs, h]

theorem exec_loadRegs_of_error {e : ExecError} (h : s.rangeAtI (x.val + 1) = some e) :
    exec (.loadRegs x) s = .next (s.raise e) := by
  simp only [exec, execLoadRegs, h]

theorem exec_loadRegs_of_range (h : s.rangeAtI (x.val + 1) = none) :
    exec (.loadRegs x) s = .next (State.advanceI { s with v := s.loadedRegs x } (x.val + 1)) := by
  simp only [exec, execLoadRegs, h]

end Branches

/-! ### The effects -/

/-- The ways an instruction can change the state. -/
inductive Effect (i : Instr) (s : State) : State → Prop
  /-- An execution error is taken (R202). -/
  | error (e : ExecError) : Effect i s (s.raise e)
  /-- A jump, a skip, a retry or none of them (R100, R103, R160): `pc` stays at most 0x10FE. -/
  | move (a : Word) (hw : Part.pc ∈ partsWritten i)
      (ha : a.toNat ≤ 0x10FE ∨ a = s.pc + 2 ∨ a = s.pc - 2 ∨ a = s.pc) : Effect i s (s.setPc a)
  /-- `00EE` (R101). -/
  | pop (hw : Part.stack ∈ partsWritten i) (hpc : Part.pc ∈ partsWritten i) (hsp : s.sp ≠ 0) : Effect i s s.popPc
  /-- `2NNN` (R102). -/
  | push (nnn : BitVec 12) (hw : Part.stack ∈ partsWritten i) (hpc : Part.pc ∈ partsWritten i) (hsp : s.sp ≠ 15) :
      Effect i s ((s.push s.pc).setPc (addrOperand nnn))
  /-- One register (R123 to R125, R174). -/
  | register (x : Reg) (b : Byte) (hx : writesReg i x = true) : Effect i s (s.setV x b)
  /-- A result and the flag (R121). -/
  | aluResult (x : Reg) (b f : Byte) (hx : ∀ r, writesReg i r = (r == x || r == vf)) :
      Effect i s ((s.setV x b).setV vf f)
  /-- `CXNN` (R134). -/
  | random (x : Reg) (b : Byte) (hx : writesReg i x = true) (hw : Part.draws ∈ partsWritten i) :
      Effect i s (s.drawByte.2.setV x b)
  /-- I alone (R140 to R142). -/
  | index (a : Word) (hw : Part.index ∈ partsWritten i) : Effect i s (s.setI a)
  /-- `00E0` with the gate open (R161). -/
  | clear (hw : Part.screen ∈ partsWritten i) (hv : s.vblank = true) : Effect i s (s.setFb blankScreen)
  /-- `DXYN` with the gate open (R163). -/
  | draw (fb : Screen) (f : Byte) (hw : Part.screen ∈ partsWritten i) (hf : writesReg i vf = true)
      (hv : s.vblank = true) : Effect i s ((s.setFb fb).setV vf f)
  /-- `FX15` (R175). -/
  | delayTimer (b : Byte) (hw : Part.delayTimer ∈ partsWritten i) : Effect i s (s.setDt b)
  /-- `FX18` (R176). -/
  | soundTimer (b : Byte) (hw : Part.soundTimer ∈ partsWritten i) : Effect i s (s.setSt b)
  /-- `FX33` (R143). -/
  | store (bs : List Byte) (hl : bs.length = storedLen i) :
      Effect i s { s with mem := (s.writeBytes (s.atI 0) bs).mem }
  /-- `FX55` (R144). -/
  | storeBlock (bs : List Byte) (j : Word) (hl : bs.length = storedLen i) (hw : Part.index ∈ partsWritten i) :
      Effect i s (State.setI { s with mem := (s.writeBytes (s.atI 0) bs).mem } j)
  /-- `FX65` (R145). -/
  | loadBlock (vs : Vector Byte 16) (j : Word) (hv : ∀ r : Reg, writesReg i r = false → vs[r.val] = s.getV r)
      (hw : Part.index ∈ partsWritten i) : Effect i s (State.setI { s with v := vs } j)

variable {i : Instr} {s t : State}

theorem Effect.skipIf (c : Bool) (hw : Part.pc ∈ partsWritten i) : Effect i s (s.skipIf c) := by
  rw [State.skipIf_eq_setPc]
  cases c
  · exact .move _ hw (.inr (.inr (.inr rfl)))
  · exact .move _ hw (.inr (.inl rfl))

theorem Effect.retry (hw : Part.pc ∈ partsWritten i) : Effect i s s.retry :=
  .move _ hw (.inr (.inr (.inl rfl)))

theorem Effect.stay (hw : Part.pc ∈ partsWritten i) : Effect i s s :=
  .move s.pc hw (.inr (.inr (.inr rfl)))

theorem Effect.jump (a : Word) (hw : Part.pc ∈ partsWritten i) (ha : a.toNat ≤ 0x10FE) : Effect i s (s.setPc a) :=
  .move a hw (.inl ha)

theorem Effect.writeBytes (bs : List Byte) (hl : bs.length = storedLen i) :
    Effect i s (s.writeBytes (s.atI 0) bs) := by
  rw [State.writeBytes_frame]
  exact .store bs hl

theorem Effect.writeBytesAndIndex (bs : List Byte) (j : Word) (hl : bs.length = storedLen i)
    (hw : Part.index ∈ partsWritten i) : Effect i s ((s.writeBytes (s.atI 0) bs).setI j) := by
  rw [State.writeBytes_frame]
  exact .storeBlock bs j hl hw

/-- A register that `FX65` does not write is as it was (R145). -/
theorem getElem_loadedRegs_of_not_written {x r : Reg} (h : writesReg (.loadRegs x) r = false) :
    (s.loadedRegs x)[r.val] = s.getV r :=
  (getElem_loadedRegs s x r).trans (if_neg (of_decide_eq_false h))

/-- A jump's target has 12 bits (R105). -/
theorem toNat_addrOperand_le (nnn : BitVec 12) : (addrOperand nnn).toNat ≤ 0xFFF := by
  rw [toNat_addrOperand]; exact Nat.le_of_lt_succ nnn.isLt

/-- The target of `BNNN` is at most 0xFFF + 0xFF (R104). -/
theorem toNat_addrOperand_add_le (nnn : BitVec 12) (b : Byte) :
    (addrOperand nnn + byteOperand b).toNat ≤ 0x10FE := by
  have hn := toNat_addrOperand_le nnn
  have hb := b.isLt
  rw [BitVec.toNat_add, toNat_byteOperand]
  omega

/-- Every instruction answers a next state, by one of the effects. -/
theorem exec_answers (i : Instr) (s : State) : ∃ t, exec i s = .next t ∧ Effect i s t := by
  cases i with
  | cls =>
    cases hv : s.vblank with
    | true => exact ⟨_, exec_cls_of_vblank hv, .clear (.head _) hv⟩
    | false => exact ⟨_, exec_cls_of_gated hv, .retry (.tail _ (.head _))⟩
  | ret =>
    by_cases h : s.sp = 0
    · exact ⟨_, exec_ret_of_empty h, .error _⟩
    · exact ⟨_, exec_ret_of_ne h, .pop (.head _) (.tail _ (.head _)) h⟩
  | call nnn =>
    by_cases h : s.sp = 15
    · exact ⟨_, exec_call_of_full h, .error _⟩
    · exact ⟨_, exec_call_of_ne h, .push nnn (.head _) (.tail _ (.head _)) h⟩
  | jp nnn => exact ⟨_, rfl, .jump _ (.head _) ((toNat_addrOperand_le nnn).trans (by decide))⟩
  | jpV0 nnn => exact ⟨_, rfl, .jump _ (.head _) (toNat_addrOperand_add_le nnn _)⟩
  | seImm x nn => exact ⟨_, rfl, .skipIf _ (.head _)⟩
  | sneImm x nn => exact ⟨_, rfl, .skipIf _ (.head _)⟩
  | seReg x y => exact ⟨_, rfl, .skipIf _ (.head _)⟩
  | sneReg x y => exact ⟨_, rfl, .skipIf _ (.head _)⟩
  | ldImm x nn => exact ⟨_, rfl, .register x _ (beq_self_eq_true x)⟩
  | addImm x nn => exact ⟨_, rfl, .register x _ (beq_self_eq_true x)⟩
  | ldReg x y => exact ⟨_, rfl, .register x _ (beq_self_eq_true x)⟩
  | ldVxDt x => exact ⟨_, rfl, .register x _ (beq_self_eq_true x)⟩
  | orReg x y => exact ⟨_, rfl, .aluResult x _ _ (fun r => rfl)⟩
  | andReg x y => exact ⟨_, rfl, .aluResult x _ _ (fun r => rfl)⟩
  | xorReg x y => exact ⟨_, rfl, .aluResult x _ _ (fun r => rfl)⟩
  | addReg x y => exact ⟨_, rfl, .aluResult x _ _ (fun r => rfl)⟩
  | subReg x y => exact ⟨_, rfl, .aluResult x _ _ (fun r => rfl)⟩
  | shr x y => exact ⟨_, rfl, .aluResult x _ _ (fun r => rfl)⟩
  | subn x y => exact ⟨_, rfl, .aluResult x _ _ (fun r => rfl)⟩
  | shl x y => exact ⟨_, rfl, .aluResult x _ _ (fun r => rfl)⟩
  | rnd x nn => exact ⟨_, rfl, .random x _ (beq_self_eq_true x) (.tail _ (.head _))⟩
  | ldI nnn => exact ⟨_, rfl, .index _ (.head _)⟩
  | addI x => exact ⟨_, rfl, .index _ (.head _)⟩
  | ldF x => exact ⟨_, rfl, .index _ (.head _)⟩
  | ldDtVx x => exact ⟨_, rfl, .delayTimer _ (.head _)⟩
  | ldStVx x => exact ⟨_, rfl, .soundTimer _ (.head _)⟩
  | drw x y n =>
    cases hv : s.vblank with
    | false => exact ⟨_, exec_drw_of_gated hv, .retry (.tail _ (.tail _ (.head _)))⟩
    | true =>
      cases hr : s.rangeAtI n.val with
      | some e => exact ⟨_, exec_drw_of_error hv hr, .error e⟩
      | none => exact ⟨_, exec_drw_of_range hv hr, .draw _ _ (.head _) rfl hv⟩
  | skp x =>
    cases hk : keyOperand (s.getV x) with
    | none => exact ⟨_, exec_skp_of_no_key hk, .error _⟩
    | some k => exact ⟨_, exec_skp_of_key hk, .skipIf _ (.head _)⟩
  | sknp x =>
    cases hk : keyOperand (s.getV x) with
    | none => exact ⟨_, exec_sknp_of_no_key hk, .error _⟩
    | some k => exact ⟨_, exec_sknp_of_key hk, .skipIf _ (.head _)⟩
  | wkr x =>
    cases hk : keyOperand (s.getV x) with
    | none => exact ⟨_, exec_wkr_of_no_key hk, .error _⟩
    | some k =>
      by_cases hp : (s.keysPrev[k.val] && !s.keys[k.val]) = true
      · exact ⟨_, exec_wkr_of_release hk hp, .stay (.head _)⟩
      · exact ⟨_, exec_wkr_of_wait hk hp, .retry (.head _)⟩
  | ldB x =>
    cases hr : s.rangeAtI 3 with
    | some e => exact ⟨_, exec_ldB_of_error hr, .error e⟩
    | none => exact ⟨_, exec_ldB_of_range hr, .writeBytes _ rfl⟩
  | storeRegs x =>
    cases hr : s.rangeAtI (x.val + 1) with
    | some e => exact ⟨_, exec_storeRegs_of_error hr, .error e⟩
    | none => exact ⟨_, exec_storeRegs_of_range hr, .writeBytesAndIndex _ _ (length_regsUpTo s x) (.tail _ (.head _))⟩
  | loadRegs x =>
    cases hr : s.rangeAtI (x.val + 1) with
    | some e => exact ⟨_, exec_loadRegs_of_error hr, .error e⟩
    | none =>
      exact ⟨_, exec_loadRegs_of_range hr,
        .loadBlock _ _ (fun _ => getElem_loadedRegs_of_not_written) (.tail _ (.head _))⟩

/-- The effect of an instruction that answered `t`. -/
theorem exec_effect (h : exec i s = .next t) : Effect i s t := by
  obtain ⟨u, hu, he⟩ := exec_answers i s
  rw [hu] at h
  cases h
  exact he

end Sys2Proof.Machine

/-! ## Frames

SUPPORT. What the effects leave unchanged (spec/10_state.md R20 to R30). -/

namespace Sys2Proof.Machine

variable {i : Instr} {s t : State}

/-- A register the writer tables of R20 and R21 do not name keeps its value. -/
theorem Effect.getV_of_not_written {r : Reg} (h : Effect i s t) (hr : writesReg i r = false) :
    t.getV r = s.getV r := by
  cases h with
  | register x b hx =>
    have hne : r ≠ x := fun e => by rw [e, hx] at hr; cases hr
    rw [State.getV_setV, if_neg hne]
  | random x b hx =>
    have hne : r ≠ x := fun e => by rw [e, hx] at hr; cases hr
    rw [State.getV_setV, if_neg hne]; rfl
  | aluResult x b f hx =>
    obtain ⟨hne, hnf⟩ : r ≠ x ∧ r ≠ vf := by simpa [hx] using hr
    rw [State.getV_setV, State.getV_setV, if_neg hnf, if_neg hne]
  | draw fb f hw hf =>
    have hne : r ≠ vf := fun e => by rw [e, hf] at hr; cases hr
    rw [State.getV_setV, if_neg hne]; rfl
  | loadBlock vs j hv => exact hv r hr
  | error | move | pop | push | index | clear | delayTimer | soundTimer | store | storeBlock => rfl

/-- The key vectors, `vblank`, `ir` and the parameters are no instruction's to write (R26, R28 to R30). -/
theorem Effect.keeps_unwritten (h : Effect i s t) :
    t.keys = s.keys ∧ t.keysPrev = s.keysPrev ∧ t.vblank = s.vblank ∧ t.ir = s.ir ∧ t.cfg = s.cfg := by
  cases h with
  | _ => simp

/-- An instruction takes an error or leaves the tick going as it was (R202). -/
theorem Effect.raises_or_goes_on (h : Effect i s t) :
    (∃ e, t = s.raise e) ∨ (t.report = s.report ∧ t.iter = s.iter) := by
  cases h with
  | error e => exact .inl ⟨e, rfl⟩
  | _ => exact .inr (by simp)

theorem Effect.keeps_index (h : Effect i s t) (hi : Part.index ∉ partsWritten i) : t.i = s.i := by
  cases h with
  | index a hw | storeBlock bs j hl hw | loadBlock vs j hv hw => exact absurd hw hi
  | _ => simp

theorem Effect.keeps_pc (h : Effect i s t) (hi : Part.pc ∉ partsWritten i) : t.pc = s.pc := by
  cases h with
  | move a hw | pop _ hw | push nnn _ hw => exact absurd hw hi
  | _ => simp

theorem Effect.keeps_stack (h : Effect i s t) (hi : Part.stack ∉ partsWritten i) :
    t.sp = s.sp ∧ t.stack = s.stack := by
  cases h with
  | pop hw | push nnn hw => exact absurd hw hi
  | _ => simp

theorem Effect.keeps_dt (h : Effect i s t) (hi : Part.delayTimer ∉ partsWritten i) : t.dt = s.dt := by
  cases h with
  | delayTimer b hw => exact absurd hw hi
  | _ => simp

theorem Effect.keeps_st (h : Effect i s t) (hi : Part.soundTimer ∉ partsWritten i) : t.st = s.st := by
  cases h with
  | soundTimer b hw => exact absurd hw hi
  | _ => simp

theorem Effect.keeps_fb (h : Effect i s t) (hi : Part.screen ∉ partsWritten i ∨ s.vblank = false) :
    t.fb = s.fb := by
  cases h with
  | clear hw hv | draw fb f hw _ hv =>
    rcases hi with hn | hn
    · exact absurd hw hn
    · rw [hv] at hn; cases hn
  | _ => simp

theorem Effect.keeps_fresh (h : Effect i s t) (hi : Part.draws ∉ partsWritten i) : t.fresh = s.fresh := by
  cases h with
  | random x b hx hw => exact absurd hw hi
  | _ => simp

/-- Settles O24, by the effects of an instruction. -/
theorem registersOutsideTheWriterTableKeepTheirValue :
    Obligations.RegistersOutsideTheWriterTableKeepTheirValue :=
  fun _ _ _ _ hx hr => (exec_effect hx).getV_of_not_written hr

/-- Settles O25, by the effects of an instruction, a lemma per piece of state. -/
theorem otherStateChangesOnlyByItsWriters : Obligations.OtherStateChangesOnlyByItsWriters := by
  intro i s t hx
  have he := exec_effect hx
  exact ⟨he.keeps_index, he.keeps_pc, he.keeps_stack, he.keeps_dt, he.keeps_st, he.keeps_fb, he.keeps_fresh,
    he.keeps_unwritten⟩

end Sys2Proof.Machine

/-! ## Non-interference

SUPPORT. Who reads `vblank`, KP, K, DT, ST and `ir` (spec/10_state.md R21, R25, R26, R28, R29). -/

namespace Sys2Proof.Machine

/-- New values for some of the six pieces of state; `none` leaves a piece as it is. -/
structure Override where
  vblank : Option Bool := none
  keysPrev : Option (Vector Bool 16) := none
  keys : Option (Vector Bool 16) := none
  dt : Option Byte := none
  st : Option Byte := none
  ir : Option Word := none

/-- The state with the pieces replaced. -/
def State.override (p : Override) (s : State) : State :=
  { s with
    vblank := p.vblank.getD s.vblank
    keysPrev := p.keysPrev.getD s.keysPrev
    keys := p.keys.getD s.keys
    dt := p.dt.getD s.dt
    st := p.st.getD s.st
    ir := p.ir.getD s.ir }

/-- Each piece is left as it is, or the instruction is not listed as reading it or, of a timer, writing it. -/
structure Override.Avoids (p : Override) (i : Instr) : Prop where
  vblank : p.vblank = none ∨ i ≠ .cls ∧ ∀ x y n, i ≠ .drw x y n
  keysPrev : p.keysPrev = none ∨ ∀ x, i ≠ .wkr x
  keys : p.keys = none ∨ ∀ x, i ≠ .skp x ∧ i ≠ .sknp x ∧ i ≠ .wkr x
  dt : p.dt = none ∨ ∀ x, i ≠ .ldVxDt x ∧ i ≠ .ldDtVx x
  st : p.st = none ∨ ∀ x, i ≠ .ldStVx x

section Override

variable (p : Override) (s : State)

theorem State.override_skipIf (c : Bool) : (s.override p).skipIf c = (s.skipIf c).override p := by
  cases c <;> rfl

theorem State.override_writeByte (a : Nat) (b : Byte) :
    (s.override p).writeByte a b = (s.writeByte a b).override p := by
  unfold State.writeByte
  split <;> rfl

theorem State.override_writeBytes (bs : List Byte) (a : Nat) :
    (s.override p).writeBytes a bs = (s.writeBytes a bs).override p := by
  induction bs generalizing s a with
  | nil => rfl
  | cons b bs ih => rw [State.writeBytes, State.override_writeByte, ih, State.writeBytes]

/-- The bytes at I are no piece of the six. -/
theorem State.override_loadedRegs (x : Reg) : (s.override p).loadedRegs x = s.loadedRegs x := rfl

theorem State.override_drawSprite (x0 y0 n : Nat) :
    (s.override p).drawSprite x0 y0 n = s.drawSprite x0 y0 n := rfl

variable {p s}

theorem State.override_keys (h : p.keys = none) : (s.override p).keys = s.keys := by
  simp [State.override, h]

theorem State.override_keysPrev (h : p.keysPrev = none) : (s.override p).keysPrev = s.keysPrev := by
  simp [State.override, h]

theorem State.override_vblank (h : p.vblank = none) : (s.override p).vblank = s.vblank := by
  simp [State.override, h]

theorem State.override_dt (h : p.dt = none) : (s.override p).dt = s.dt := by
  simp [State.override, h]

theorem State.setDt_override (b : Byte) (h : p.dt = none) : (s.setDt b).override p = (s.override p).setDt b := by
  simp [State.override, State.setDt, h]

theorem State.setSt_override (b : Byte) (h : p.st = none) : (s.setSt b).override p = (s.override p).setSt b := by
  simp [State.override, State.setSt, h]

/-- An instruction acts the same whatever the pieces hold that it does not read. -/
theorem exec_override (i : Instr) (h : p.Avoids i) :
    exec i (s.override p) = mapNext (State.override p) (exec i s) := by
  cases i with
  | cls =>
    have hv := State.override_vblank (s := s) (h.vblank.resolve_right fun hn => hn.1 rfl)
    cases hs : s.vblank with
    | true => rw [exec_cls_of_vblank hs, exec_cls_of_vblank (hv.trans hs)]; rfl
    | false => rw [exec_cls_of_gated hs, exec_cls_of_gated (hv.trans hs)]; rfl
  | ret =>
    by_cases hs : s.sp = 0
    · rw [exec_ret_of_empty hs, exec_ret_of_empty (s := s.override p) hs]; rfl
    · rw [exec_ret_of_ne hs, exec_ret_of_ne (s := s.override p) hs]; rfl
  | call nnn =>
    by_cases hs : s.sp = 15
    · rw [exec_call_of_full hs, exec_call_of_full (s := s.override p) hs]; rfl
    · rw [exec_call_of_ne hs, exec_call_of_ne (s := s.override p) hs]; rfl
  | seImm | sneImm | seReg | sneReg => exact congrArg Host.Outcome.next (State.override_skipIf p s _)
  | drw x y n =>
    have hv := State.override_vblank (s := s) (h.vblank.resolve_right fun hn => hn.2 x y n rfl)
    cases hs : s.vblank with
    | false => rw [exec_drw_of_gated hs, exec_drw_of_gated (hv.trans hs)]; rfl
    | true =>
      cases hr : s.rangeAtI n.val with
      | some e => rw [exec_drw_of_error hs hr, exec_drw_of_error (hv.trans hs) hr]; rfl
      | none => rw [exec_drw_of_range hs hr, exec_drw_of_range (hv.trans hs) hr, State.override_drawSprite]; rfl
  | skp x =>
    have hkeys := State.override_keys (s := s) (h.keys.resolve_right fun hn => (hn x).1 rfl)
    cases hk : keyOperand (s.getV x) with
    | none => rw [exec_skp_of_no_key hk, exec_skp_of_no_key (s := s.override p) hk]; rfl
    | some k =>
      rw [exec_skp_of_key hk, exec_skp_of_key (s := s.override p) hk, hkeys, State.override_skipIf]; rfl
  | sknp x =>
    have hkeys := State.override_keys (s := s) (h.keys.resolve_right fun hn => (hn x).2.1 rfl)
    cases hk : keyOperand (s.getV x) with
    | none => rw [exec_sknp_of_no_key hk, exec_sknp_of_no_key (s := s.override p) hk]; rfl
    | some k =>
      rw [exec_sknp_of_key hk, exec_sknp_of_key (s := s.override p) hk, hkeys, State.override_skipIf]; rfl
  | wkr x =>
    have hkn := State.override_keys (s := s) (h.keys.resolve_right fun hn => (hn x).2.2 rfl)
    have hkp := State.override_keysPrev (s := s) (h.keysPrev.resolve_right fun hn => hn x rfl)
    cases hk : keyOperand (s.getV x) with
    | none => rw [exec_wkr_of_no_key hk, exec_wkr_of_no_key (s := s.override p) hk]; rfl
    | some k =>
      have hkeys : ((s.override p).keysPrev[k.val] && !(s.override p).keys[k.val]) =
          (s.keysPrev[k.val] && !s.keys[k.val]) := by rw [hkp, hkn]
      by_cases hp : (s.keysPrev[k.val] && !s.keys[k.val]) = true
      · rw [exec_wkr_of_release hk hp, exec_wkr_of_release (s := s.override p) hk (hkeys ▸ hp)]; rfl
      · rw [exec_wkr_of_wait hk hp, exec_wkr_of_wait (s := s.override p) hk (hkeys ▸ hp)]; rfl
  | ldVxDt x =>
    have hd := State.override_dt (s := s) (h.dt.resolve_right fun hn => (hn x).1 rfl)
    exact congrArg (fun b => Host.Outcome.next ((s.override p).setV x b)) hd
  | ldDtVx x =>
    have hd : p.dt = none := h.dt.resolve_right fun hn => (hn x).2 rfl
    exact congrArg Host.Outcome.next (State.setDt_override _ hd).symm
  | ldStVx x =>
    have hd : p.st = none := h.st.resolve_right fun hn => hn x rfl
    exact congrArg Host.Outcome.next (State.setSt_override _ hd).symm
  | ldB x =>
    cases hr : s.rangeAtI 3 with
    | some e => rw [exec_ldB_of_error hr, exec_ldB_of_error (s := s.override p) hr]; rfl
    | none =>
      rw [exec_ldB_of_range hr, exec_ldB_of_range (s := s.override p) hr, State.override_writeBytes]; rfl
  | storeRegs x =>
    cases hr : s.rangeAtI (x.val + 1) with
    | some e => rw [exec_storeRegs_of_error hr, exec_storeRegs_of_error (s := s.override p) hr]; rfl
    | none =>
      rw [exec_storeRegs_of_range hr, exec_storeRegs_of_range (s := s.override p) hr,
        State.override_writeBytes]; rfl
  | loadRegs x =>
    cases hr : s.rangeAtI (x.val + 1) with
    | some e => rw [exec_loadRegs_of_error hr, exec_loadRegs_of_error (s := s.override p) hr]; rfl
    | none =>
      rw [exec_loadRegs_of_range hr, exec_loadRegs_of_range (s := s.override p) hr,
        State.override_loadedRegs]; rfl
  | jp | jpV0 | ldImm | addImm | ldReg | orReg | andReg | xorReg | addReg | subReg | shr | subn | shl | rnd | ldI
  | addI | ldF => rfl

end Override

/-- Settles O27: each clause overrides one piece, which the instruction's row does not read. -/
theorem instructionsReadOnlyWhatTheirRulesName : Obligations.InstructionsReadOnlyWhatTheirRulesName := by
  intro i s
  exact ⟨fun b hcls hdrw => exec_override (p := { vblank := some b }) i
      ⟨.inr ⟨hcls, hdrw⟩, .inl rfl, .inl rfl, .inl rfl, .inl rfl⟩,
    fun k hn => exec_override (p := { keysPrev := some k }) i ⟨.inl rfl, .inr hn, .inl rfl, .inl rfl, .inl rfl⟩,
    fun k hn => exec_override (p := { keys := some k }) i ⟨.inl rfl, .inl rfl, .inr hn, .inl rfl, .inl rfl⟩,
    fun b hn => exec_override (p := { dt := some b }) i ⟨.inl rfl, .inl rfl, .inl rfl, .inr hn, .inl rfl⟩,
    fun b hn => exec_override (p := { st := some b }) i ⟨.inl rfl, .inl rfl, .inl rfl, .inl rfl, .inr hn⟩,
    fun w => exec_override (p := { ir := some w }) i ⟨.inl rfl, .inl rfl, .inl rfl, .inl rfl, .inl rfl⟩⟩

end Sys2Proof.Machine

/-! ## The invariant

SUPPORT. The invariant of spec/10_state.md R41 in three stages: `CoreInv`, what memory, the stack and `pc` must
satisfy at any moment; `CycleInv`, what holds inside an instruction cycle, where no report is out; and `Inv`
between cycles. An instruction keeps the first; the start of a cycle leads from `Inv` to `CycleInv`, its end back. -/

namespace Sys2Proof.Machine

/-- The part of the invariant that holds at every moment (R41). -/
structure State.CoreInv (s : State) : Prop where
  memCanonical : Memory.wf s.cfg s.mem = true
  stack : s.stackInv
  pcBound : s.pc.toNat ≤ 0x10FE

/-- What holds inside an instruction cycle (R210, R212). -/
structure State.CycleInv (s : State) : Prop where
  core : s.CoreInv
  noReport : s.report = none
  place : s.iter < s.cfg.ipf.val
  gate : s.vblank = decide (s.iter = 0)

variable {i : Instr} {s t : State}

/-! ### The stack and `pc` -/

/-- A push below the top slot keeps the stack's invariant (R24). -/
theorem State.stackInv.push_stackInv (h : s.stackInv) {a : Word} (ha : a.toNat ≤ 0x1000) (hsp : s.sp ≠ 15) :
    (s.push a).stackInv := by
  obtain ⟨hzero, hbound⟩ := h
  refine ⟨fun k hk => ?_, fun k => ?_⟩
  · have hne : k ≠ s.sp + 1 := by
      rintro rfl
      rcases hk with h0 | hlt
      · omega
      · exact lt_irrefl _ hlt
    have hk' : k = 0 ∨ s.sp < k := by
      rw [State.push_sp] at hk
      omega
    rw [State.push_slot, if_neg hne]
    exact hzero k hk'
  · rw [State.push_slot]
    split
    · exact ha
    · exact hbound k

/-- A pop keeps the stack's invariant (R24). -/
theorem State.stackInv.popPc_stackInv (h : s.stackInv) : s.popPc.stackInv := by
  obtain ⟨hzero, hbound⟩ := h
  refine ⟨fun k hk => ?_, fun k => ?_⟩
  · rw [State.popPc_slot]
    split
    · rfl
    · next hne =>
      rw [State.popPc_sp] at hk
      exact hzero k (by omega)
  · rw [State.popPc_slot]
    split
    · exact Nat.zero_le _
    · exact hbound k

/-- After a fetch, a skip or a retry stays within the bound of `pc` (R103, R160). -/
theorem toNat_le_of_near {pc a : Word} (h : 2 ≤ pc.toNat ∧ pc.toNat ≤ 0x1000)
    (ha : a = pc + 2 ∨ a = pc - 2 ∨ a = pc) : a.toNat ≤ 0x10FE := by
  bv_omega

/-- A fetch advances `pc` by 2, to at most 0x1000 (R71, R72). -/
theorem State.fetched_pc_toNat (h : s.pc.toNat ≤ 0xFFE) : s.fetched.pc.toNat = s.pc.toNat + 2 := by
  simp only [State.fetched]
  bv_omega

/-- A run of writes keeps the canonical form for the parameters it began with. -/
theorem State.writeBytes_mem_wf {a : Nat} {bs : List Byte} (h : Memory.wf s.cfg s.mem = true) :
    Memory.wf s.cfg (s.writeBytes a bs).mem = true := by
  have hw := State.writeBytes_wf s bs a h
  rwa [State.writeBytes_cfg] at hw

/-- Every instruction keeps the core of the invariant, from a `pc` that a fetch has advanced. -/
theorem Effect.keeps_coreInv (he : Effect i s t) (h : s.CoreInv) (hpc : 2 ≤ s.pc.toNat ∧ s.pc.toNat ≤ 0x1000) :
    t.CoreInv := by
  obtain ⟨hmem, hstack, hbound⟩ := h
  cases he with
  | move a hw ha => exact ⟨hmem, hstack, ha.elim id (toNat_le_of_near hpc)⟩
  | pop => exact ⟨hmem, hstack.popPc_stackInv, (hstack.2 s.sp).trans (by decide)⟩
  | push nnn _ _ hsp => exact ⟨hmem, hstack.push_stackInv hpc.2 hsp, (toNat_addrOperand_le nnn).trans (by decide)⟩
  | store | storeBlock => exact ⟨State.writeBytes_mem_wf hmem, hstack, hbound⟩
  | error | register | aluResult | random | index | clear | draw | delayTimer | soundTimer | loadBlock =>
    exact ⟨hmem, hstack, hbound⟩

/-! ### The cycle -/

/-- A state between ticks meets the invariant when its core and its error mark do. -/
theorem State.CoreInv.inv_of_iter_zero (h : s.CoreInv) (hi : s.iter = 0)
    (hm : ∀ e, s.report = some (.failure e) → s.errorSeen = true) : s.Inv :=
  ⟨h.memCanonical, h.stack, h.pcBound, ⟨hi.trans_lt s.cfg.ipf.2, fun hn => absurd hi hn⟩, hm⟩

/-- Taking an error ends the tick with the mark set (R202, R205). -/
theorem State.CoreInv.raise_inv (h : s.CoreInv) (e : ExecError) : (s.raise e).Inv :=
  State.CoreInv.inv_of_iter_zero ⟨h.memCanonical, h.stack, h.pcBound⟩ rfl fun _ _ => rfl

/-- A tick may end in success at any moment (R210). -/
theorem State.CoreInv.endTick_inv (h : s.CoreInv) : s.endTick.Inv :=
  State.CoreInv.inv_of_iter_zero ⟨h.memCanonical, h.stack, h.pcBound⟩ rfl fun _ he => nomatch he

theorem State.CoreInv.fetched_coreInv (h : s.CoreInv) (hpc : s.pc.toNat ≤ 0xFFE) : s.fetched.CoreInv :=
  ⟨h.memCanonical, h.stack, by rw [State.fetched_pc_toNat hpc]; omega⟩

theorem State.Inv.beginCycle_cycleInv (h : s.Inv) : s.beginCycle.CycleInv := by
  rw [State.beginCycle_eq]
  exact ⟨⟨h.memCanonical, h.stack, h.pcBound⟩, rfl, h.tick.1, rfl⟩

theorem State.CycleInv.endCycle_inv (h : s.CycleInv) : s.endCycle.Inv := by
  obtain ⟨⟨hmem, hstack, hpc⟩, hreport, -, hgate⟩ := h
  rcases s.endCycle_cases with ⟨⟨r, hr⟩, -⟩ | ⟨-, hlt, he⟩ | ⟨-, -, he⟩
  · rw [hr] at hreport; cases hreport
  · rw [he]
    refine ⟨hmem, hstack, hpc, ⟨hlt, fun _ => ⟨hreport, ?_⟩⟩, fun e hf => ?_⟩
    · simp [hgate]
    · rw [hreport] at hf; cases hf
  · rw [he]
    exact State.CoreInv.endTick_inv ⟨hmem, hstack, hpc⟩

theorem State.endCycle_of_report {r : TickResult} (h : s.report = some r) : s.endCycle = s := by
  simp only [State.endCycle, h]

/-- Fetch and execute raise an error, or run an instruction in the state after fetch (R70). -/
theorem fetchExecute_cases (h : fetchExecute s = .next t) :
    (∃ e, t = s.raise e) ∨
      (s.pc.toNat ≤ 0xFFE ∧ ((∃ e, t = s.fetched.raise e) ∨ ∃ i, exec i s.fetched = .next t)) := by
  rcases s.fetch_cases with ⟨-, hf⟩ | ⟨hpc, hf⟩
  · simp only [fetchExecute, hf] at h
    cases h
    exact .inl ⟨_, rfl⟩
  · simp only [fetchExecute, hf, executeCurrent] at h
    split at h
    · cases h
      exact .inr ⟨hpc, .inl ⟨_, rfl⟩⟩
    · exact .inr ⟨hpc, .inr ⟨_, h⟩⟩

/-- Fetch and execute always answer a next state, since every instruction does. -/
theorem fetchExecute_answers (s : State) : ∃ t, fetchExecute s = .next t := by
  rcases s.fetch_cases with ⟨-, hf⟩ | ⟨-, hf⟩
  · simp only [fetchExecute, hf]
    exact ⟨_, rfl⟩
  · simp only [fetchExecute, hf, executeCurrent]
    split
    · exact ⟨_, rfl⟩
    · next i _ =>
      obtain ⟨t, ht, -⟩ := exec_answers i s.fetched
      exact ⟨t, ht⟩

/-- Fetch and execute leave the parameters. -/
theorem fetchExecute_cfg (h : fetchExecute s = .next t) : t.cfg = s.cfg := by
  rcases fetchExecute_cases h with ⟨e, rfl⟩ | ⟨-, ⟨e, rfl⟩ | ⟨i, hx⟩⟩
  · rfl
  · rfl
  · obtain ⟨-, -, -, -, hcfg⟩ := (exec_effect hx).keeps_unwritten
    exact hcfg

/-- Fetch and execute stay inside the cycle, or end the tick with an error. -/
theorem State.CycleInv.after_fetchExecute (h : s.CycleInv) (hx : fetchExecute s = .next t) :
    t.CycleInv ∨ (t.Inv ∧ ∃ r, t.report = some r) := by
  obtain ⟨hcore, hreport, hplace, hgate⟩ := h
  rcases fetchExecute_cases hx with ⟨e, rfl⟩ | ⟨hpc, ⟨e, rfl⟩ | ⟨i, hi⟩⟩
  · exact .inr ⟨hcore.raise_inv e, _, rfl⟩
  · exact .inr ⟨(hcore.fetched_coreInv hpc).raise_inv e, _, rfl⟩
  · have he := exec_effect hi
    have hnext := State.fetched_pc_toNat hpc
    obtain ⟨-, -, hv, -, hcfg⟩ := he.keeps_unwritten
    rcases he.raises_or_goes_on with ⟨e, rfl⟩ | ⟨hr, hit⟩
    · exact .inr ⟨(hcore.fetched_coreInv hpc).raise_inv e, _, rfl⟩
    · refine .inl ⟨he.keeps_coreInv (hcore.fetched_coreInv hpc) (by omega), hr.trans hreport, ?_, ?_⟩
      · rw [hit, hcfg]; exact hplace
      · rw [hit, hv]; exact hgate

theorem step_eq_endCycle (h : step s = .next t) :
    ∃ u, fetchExecute s.beginCycle = .next u ∧ t = u.endCycle := by
  unfold step runCycle at h
  split at h
  · next u hu => cases h; exact ⟨u, hu, rfl⟩
  · cases h
  · cases h

/-- Settles O9: the cycle's start, its middle and its end each keep their stage of the invariant. -/
theorem stepKeepsTheInvariant : Obligations.StepKeepsTheInvariant := by
  intro s t h hs
  obtain ⟨u, hu, rfl⟩ := step_eq_endCycle hs
  rcases h.beginCycle_cycleInv.after_fetchExecute hu with hc | ⟨hinv, r, hr⟩
  · exact hc.endCycle_inv
  · rw [State.endCycle_of_report hr]
    exact hinv

/-! ### The tick -/

/-- One turn of the tick's loop: a cycle at its place, then the end at an error or the rest of the loop. -/
theorem tickLoop_succ_cases {k n : Nat} (h : tickLoop (k + 1) n s = .next t) :
    ∃ u, fetchExecute { s with vblank := decide (n = 0), iter := n } = .next u ∧
      ((t = u ∧ ∃ r, u.report = some r) ∨ (u.report = none ∧ tickLoop k (n + 1) u = .next t)) := by
  simp only [tickLoop] at h
  split at h
  · next u hu =>
    split at h
    · next r hr => cases h; exact ⟨_, hu, .inl ⟨rfl, r, hr⟩⟩
    · next hr => exact ⟨u, hu, .inr ⟨hr, h⟩⟩
  · cases h
  · cases h

/-- The tick's loop, begun with no report out, ends in a state that meets the invariant. -/
theorem tickLoop_inv {k n : Nat} (h : s.CoreInv) (hr : s.report = none) (hn : n + k ≤ s.cfg.ipf.val)
    (ht : tickLoop k n s = .next t) : t.Inv := by
  induction k generalizing n s with
  | zero => cases ht; exact h.endTick_inv
  | succ k ih =>
    obtain ⟨u, hu, hend⟩ := tickLoop_succ_cases ht
    have hcfg : u.cfg = s.cfg := (fetchExecute_cfg hu).trans rfl
    have hcycle : State.CycleInv { s with vblank := decide (n = 0), iter := n } :=
      ⟨⟨h.memCanonical, h.stack, h.pcBound⟩, hr, show n < s.cfg.ipf.val by omega, rfl⟩
    rcases hcycle.after_fetchExecute hu with hc | ⟨hinv, r, hfail⟩
    · rcases hend with ⟨-, r, hsome⟩ | ⟨hnone, hrest⟩
      · rw [hc.noReport] at hsome; cases hsome
      · exact ih hc.core hnone (by rw [hcfg]; omega) hrest
    · rcases hend with ⟨rfl, -⟩ | ⟨hnone, -⟩
      · exact hinv
      · rw [hfail] at hnone; cases hnone

/-- A tick always answers a next state. -/
theorem tickLoop_answers (k n : Nat) (s : State) : ∃ t, tickLoop k n s = .next t := by
  induction k generalizing n s with
  | zero => exact ⟨_, rfl⟩
  | succ k ih =>
    obtain ⟨u, hu⟩ := fetchExecute_answers { s with vblank := decide (n = 0), iter := n }
    simp only [tickLoop, hu]
    split
    · exact ⟨_, rfl⟩
    · exact ih (n + 1) u

/-- A tick leaves the parameters. -/
theorem tickLoop_cfg {k n : Nat} (ht : tickLoop k n s = .next t) : t.cfg = s.cfg := by
  induction k generalizing n s with
  | zero => cases ht; rfl
  | succ k ih =>
    obtain ⟨u, hu, ⟨rfl, -⟩ | ⟨-, hrest⟩⟩ := tickLoop_succ_cases ht
    · exact (fetchExecute_cfg hu).trans rfl
    · exact (ih hrest).trans ((fetchExecute_cfg hu).trans rfl)

theorem tickFrame_answers (s : State) : ∃ t, tickFrame s = .next t := tickLoop_answers _ _ _

theorem tickFrame_inv (h : s.Inv) (ht : tickFrame s = .next t) : t.Inv :=
  tickLoop_inv (s := State.updateTimers { s with report := none }) ⟨h.memCanonical, h.stack, h.pcBound⟩ rfl
    (Nat.zero_add _).le ht

theorem tickFrame_cfg (ht : tickFrame s = .next t) : t.cfg = s.cfg :=
  tickLoop_cfg (s := State.updateTimers { s with report := none }) ht

/-! ### The reset state and the host -/

theorem State.initial_inv (c : Config) : (State.initial c).Inv :=
  State.CoreInv.inv_of_iter_zero ⟨rfl, ⟨fun k _ => by simp [State.initial], fun k => by simp [State.initial]⟩,
    show (0x200 : Word).toNat ≤ 0x10FE by decide⟩ rfl fun _ he => nomatch he

/-- A byte of memory with nothing listed (R40). -/
theorem State.readByte_of_mem_nil (h : s.mem = []) (a : Nat) : s.readByte a = resetByte s.cfg a := by
  rw [State.readByte, h]; rfl

/-- The font table at FONT_BASE (R31, R40). -/
theorem resetByte_font (c : Config) (k : Fin 80) : resetByte c (c.fontBase.val + k.val) = c.fontData[k.val] := by
  have hb := c.fontBase.isLt
  have hk := k.isLt
  rw [resetByte, if_pos (by omega), if_pos (by omega)]
  simp

/-- Zero outside the font table (R40). -/
theorem resetByte_of_outside (c : Config) {a : Nat} (h : a < c.fontBase.val ∨ c.fontBase.val + 80 ≤ a) :
    resetByte c a = 0 := by
  unfold resetByte
  split
  · split
    · rw [Vector.getElem?_eq_none (by omega)]; rfl
    · rfl
  · rfl

theorem State.initial_atReset (c : Config) : (State.initial c).AtReset where
  registers r := by simp [State.getV, State.initial]
  index := rfl
  pc := rfl
  sp := rfl
  slots k := by simp [State.initial]
  timers := ⟨rfl, rfl⟩
  keysUp k := by simp [State.initial]
  screen := Screen.lit_blank
  vblank := rfl
  ir := rfl
  font k := (State.readByte_of_mem_nil rfl _).trans (resetByte_font c k)
  zeroes _ h := (State.readByte_of_mem_nil rfl _).trans (resetByte_of_outside c h)

/-- Settles O8: both are the reset state for some parameters. -/
theorem resetStateMeetsTheInvariant : Obligations.ResetStateMeetsTheInvariant :=
  ⟨State.initial_inv _, State.initial_atReset _, State.initial_inv⟩

/-- The mark and the count of draws, which a restart keeps, are no part of the hardware's state. -/
theorem State.restart_atReset (s : State) (c : Config) : (s.restart c).AtReset :=
  let h := State.initial_atReset c
  ⟨h.registers, h.index, h.pc, h.sp, h.slots, h.timers, h.keysUp, h.screen, h.vblank, h.ir, h.font, h.zeroes⟩

theorem State.restart_inv (s : State) (c : Config) : (s.restart c).Inv :=
  let h := State.initial_inv c
  State.CoreInv.inv_of_iter_zero ⟨h.memCanonical, h.stack, h.pcBound⟩ rfl fun _ he => nomatch he

theorem hostLoadProgram_frame (image : List Byte) (s : State) :
    (hostLoadProgram image s).2 = { s with mem := (hostLoadProgram image s).2.mem, fresh := s.fresh + 1 } :=
  State.writeBytes_frame _ _ _

theorem hostLoadProgram_mem_wf (image : List Byte) (h : Memory.wf s.cfg s.mem = true) :
    Memory.wf s.cfg (hostLoadProgram image s).2.mem = true :=
  State.writeBytes_mem_wf (s := { s with fresh := s.fresh + 1 }) h

/-- What a host operation can leave: the state as it was, a restart (with other parameters in the operation of
R220 only), a loaded image, other keys, or what a tick leaves (R220 to R228). -/
theorem hostStep_cases {op : HostOp} {r : HostReply} (h : hostStep op s = .next (r, t)) :
    t = s ∨ (∃ c, t = s.restart c ∧ ((∀ n, op ≠ .initializeOp n) → c = s.cfg)) ∨
    (∃ image, t = (hostLoadProgram image s).2) ∨ (∃ k, t = { s with keys := k }) ∨ tickFrame s = .next t := by
  have hi : s.iter = 0 := by
    by_contra hi
    rw [hostStep_during op hi] at h
    cases h
  cases op with
  | initializeOp n =>
    rw [hostStep_initialize n hi] at h
    unfold hostInitialize at h
    split at h
    · cases h; exact .inr (.inl ⟨_, rfl, fun hne => absurd rfl (hne n)⟩)
    · cases h; exact .inl rfl
  | resetOp =>
    rw [hostStep_reset hi] at h
    cases h; exact .inr (.inl ⟨_, rfl, fun _ => rfl⟩)
  | loadProgram image =>
    rw [hostStep_loadProgram image hi] at h
    cases h; exact .inr (.inr (.inl ⟨image, rfl⟩))
  | setKeyState key pressed =>
    rw [hostStep_setKeyState key pressed hi] at h
    unfold hostSetKeyState at h
    split at h
    · cases h; exact .inr (.inr (.inr (.inl ⟨_, rfl⟩)))
    · cases h; exact .inl rfl
  | getPixel x y => rw [hostStep_getPixel x y hi] at h; cases h; exact .inl rfl
  | getScreenWidth => rw [hostStep_getScreenWidth hi] at h; cases h; exact .inl rfl
  | getScreenHeight => rw [hostStep_getScreenHeight hi] at h; cases h; exact .inl rfl
  | shouldPlaySound => rw [hostStep_shouldPlaySound hi] at h; cases h; exact .inl rfl
  | tickFrame =>
    obtain ⟨u, hu⟩ := tickFrame_answers s
    rw [hostStep_tickFrame hi hu] at h
    cases h; exact .inr (.inr (.inr (.inr hu)))

/-- Settles O10, by what a host operation can leave. -/
theorem hostOperationsKeepTheInvariant : Obligations.HostOperationsKeepTheInvariant := by
  intro op s t r h hs
  rcases hostStep_cases hs with rfl | ⟨c, rfl, -⟩ | ⟨image, rfl⟩ | ⟨k, rfl⟩ | ht
  · exact h
  · exact s.restart_inv c
  · rw [hostLoadProgram_frame]
    exact ⟨hostLoadProgram_mem_wf image h.memCanonical, h.stack, h.pcBound, h.tick, h.mark⟩
  · exact ⟨h.memCanonical, h.stack, h.pcBound, h.tick, h.mark⟩
  · exact tickFrame_inv h ht

/-- No host operation but that of R220 changes the parameters (D11, log 4). -/
theorem hostStep_cfg {op : HostOp} {r : HostReply} (hop : ∀ n, op ≠ .initializeOp n)
    (h : hostStep op s = .next (r, t)) : t.cfg = s.cfg := by
  rcases hostStep_cases h with rfl | ⟨c, rfl, hc⟩ | ⟨image, rfl⟩ | ⟨k, rfl⟩ | ht
  · rfl
  · exact hc hop
  · rw [hostLoadProgram_frame]
  · rfl
  · exact tickFrame_cfg ht

/-- Settles O7: both operations are a restart, and no other changes the parameters. -/
theorem resetAndInitializeGiveTheResetState : Obligations.ResetAndInitializeGiveTheResetState := by
  refine ⟨fun s hi => ⟨_, hostStep_reset hi, s.restart_atReset _, rfl⟩, fun n s hi hn => ?_, fun n s hi hn => ?_,
    fun op s t r hop h => congrArg Config.ipf (hostStep_cfg hop h)⟩
  · refine ⟨s.restart { s.cfg with ipf := ⟨n.toNat, by omega⟩ }, ?_, s.restart_atReset _, ?_, rfl⟩
    · rw [hostStep_initialize n hi, hostInitialize, dif_pos hn]
    · exact Int.toNat_of_nonneg hn.le
  · rw [hostStep_initialize n hi, hostInitialize, dif_neg (by omega)]

end Sys2Proof.Machine

/-! ## Stored bytes

SUPPORT. What an instruction leaves in memory outside the bytes it stores, and what a fetch reads from the bytes
`FX55` and `FX33` have stored (spec/20_memory.md R50, R57, R58). -/

namespace Sys2Proof.Machine

variable {i : Instr} {s t : State}

/-! ### Outside the stored bytes -/

/-- Only the two stores write memory, and each writes the `storedLen i` bytes from I (R143, R144). -/
theorem Effect.keeps_readByte {a : Nat} (h : Effect i s t)
    (ha : ¬ (s.atI 0 ≤ a ∧ a < s.atI 0 + storedLen i)) : t.readByte a = s.readByte a := by
  have hout (bs : List Byte) (hl : bs.length = storedLen i) :
      State.readByte { s with mem := (s.writeBytes (s.atI 0) bs).mem } a = s.readByte a := by
    rw [← State.writeBytes_frame]
    exact State.readByte_writeBytes_outside s bs _ a (by rwa [hl])
  cases h with
  | store bs hl => exact hout bs hl
  | storeBlock bs j hl => exact hout bs hl
  | error | move | pop | push | register | aluResult | random | index | clear | draw | delayTimer | soundTimer
  | loadBlock => rfl

/-- Settles O26, by the effects of an instruction. -/
theorem memoryOutsideTheStoredBytesIsUnchanged : Obligations.MemoryOutsideTheStoredBytesIsUnchanged :=
  fun _ _ _ _ hx ha => (exec_effect hx).keeps_readByte ha

/-! ### Inside the stored bytes -/

/-- A byte inside a run of writes that fits memory (R57). -/
theorem State.readByte_writeBytes_inside {bs : List Byte} {a k : Nat} (w : Memory.wf s.cfg s.mem = true)
    (hfit : a + bs.length ≤ 0x1000) (hk : k < bs.length) :
    (s.writeBytes a bs).readByte (a + k) = bs[k]?.getD 0 := by
  rw [State.readByte_writeBytes s bs a _ w hfit, if_pos (by omega), Nat.add_sub_cancel_left]

/-- The block `FX55` stores, read back register by register (R144). -/
theorem State.readByte_writeBytes_regsUpTo {x k : Reg} (w : Memory.wf s.cfg s.mem = true)
    (hfit : s.i.toNat + x.val ≤ 0xFFF) (hk : k ≤ x) :
    (s.writeBytes (s.atI 0) (s.regsUpTo x)).readByte (s.i.toNat + k.val) = s.getV k := by
  have hlen := length_regsUpTo s x
  have hle : k.val ≤ x.val := hk
  rw [← getElem_regsUpTo s hk]
  exact State.readByte_writeBytes_inside w (by rw [State.atI]; omega) (by omega)

/-- The digits `FX33` stores, read back one by one (R143). -/
theorem State.readByte_writeBytes_decimalDigits {b : Byte} {k : Nat} (w : Memory.wf s.cfg s.mem = true)
    (hfit : s.i.toNat ≤ 0xFFD) (hk : k < 3) :
    (s.writeBytes (s.atI 0) (decimalDigits b)).readByte (s.i.toNat + k) = (decimalDigits b)[k]?.getD 0 :=
  State.readByte_writeBytes_inside w (Nat.add_le_add_right hfit 3) hk

/-! ### Fetching them -/

/-- A fetch inside memory puts the two bytes at `pc` into `ir`, the high one first (R53, R71). -/
theorem State.fetch_ir_of_readByte {a : Nat} {hi lo : Byte} (hpc : s.pc.toNat = a) (ha : a ≤ 0xFFE)
    (hhi : s.readByte a = hi) (hlo : s.readByte (a + 1) = lo) :
    ∃ f, s.fetch = .ok f ∧ f.ir.toNat = hi.toNat * 256 + lo.toNat := by
  subst hpc hhi hlo
  rcases s.fetch_cases with ⟨hlt, -⟩ | ⟨-, hf⟩
  · omega
  · exact ⟨s.fetched, hf, toNat_wordOfBytes _ _⟩

/-- Settles O44: the range check passes, and each of the two bytes fetched is a byte just stored. -/
theorem storedCodeIsFetched : Obligations.StoredCodeIsFetched := by
  intro x s w
  refine ⟨fun k hk hfit => ?_, fun hfit => ?_⟩
  · refine ⟨_, exec_storeRegs_of_range (s.rangeAtI_none (.inr (by omega))), ?_⟩
    have hpc : (s.i + BitVec.ofNat 16 k.val).toNat = s.i.toNat + k.val := by
      simp; omega
    exact State.fetch_ir_of_readByte hpc (by omega)
      (State.readByte_writeBytes_regsUpTo (k := k.castSucc) w hfit (Fin.le_def.mpr (Nat.le_of_succ_le hk)))
      (State.readByte_writeBytes_regsUpTo (k := k.succ) w hfit (Fin.le_def.mpr hk))
  · refine ⟨_, exec_ldB_of_range (s.rangeAtI_none (.inr (by omega))), ?_⟩
    obtain ⟨f, hf, hir⟩ := State.fetch_ir_of_readByte
      (s := { s.writeBytes (s.atI 0) (decimalDigits (s.getV x)) with pc := s.i }) rfl (hfit.trans (by decide))
      (State.readByte_writeBytes_decimalDigits w hfit (k := 0) (by decide))
      (State.readByte_writeBytes_decimalDigits w hfit (k := 1) (by decide))
    have hb := (s.getV x).isLt
    refine ⟨f, hf, hir.trans ?_⟩
    simp [decimalDigits]
    omega

end Sys2Proof.Machine

/-! ## The decoder, the encoder and the opcode map

SUPPORT. Words as their fields (spec/30_encoding.md R74, R75), what a mask keeps of them (R80), and the one law
of the decoder: `wordsDecodeTo_row`, a word that matches a row decodes to the instruction of that row with the
word's fields. Every encoding bullet is a case of it (`wordsDecodeTo_row (.jp 0)`), and with
`match_or_emptyKey`, the map's completeness, it gives the statements about decoding. -/

namespace Sys2Proof

open Machine

/-- The instruction of the same row of the opcode map, with the fields of a word (R74, R80). -/
def Instr.withFieldsOf (w : Word) : Instr → Instr
  | .cls => .cls
  | .ret => .ret
  | .jp _ => .jp (wordNNN w)
  | .call _ => .call (wordNNN w)
  | .seImm _ _ => .seImm (wordX w) (wordNN w)
  | .sneImm _ _ => .sneImm (wordX w) (wordNN w)
  | .seReg _ _ => .seReg (wordX w) (wordY w)
  | .sneReg _ _ => .sneReg (wordX w) (wordY w)
  | .ldImm _ _ => .ldImm (wordX w) (wordNN w)
  | .addImm _ _ => .addImm (wordX w) (wordNN w)
  | .ldReg _ _ => .ldReg (wordX w) (wordY w)
  | .orReg _ _ => .orReg (wordX w) (wordY w)
  | .andReg _ _ => .andReg (wordX w) (wordY w)
  | .xorReg _ _ => .xorReg (wordX w) (wordY w)
  | .addReg _ _ => .addReg (wordX w) (wordY w)
  | .subReg _ _ => .subReg (wordX w) (wordY w)
  | .shr _ _ => .shr (wordX w) (wordY w)
  | .subn _ _ => .subn (wordX w) (wordY w)
  | .shl _ _ => .shl (wordX w) (wordY w)
  | .ldI _ => .ldI (wordNNN w)
  | .jpV0 _ => .jpV0 (wordNNN w)
  | .rnd _ _ => .rnd (wordX w) (wordNN w)
  | .drw _ _ _ => .drw (wordX w) (wordY w) (wordN w)
  | .skp _ => .skp (wordX w)
  | .sknp _ => .sknp (wordX w)
  | .ldVxDt _ => .ldVxDt (wordX w)
  | .wkr _ => .wkr (wordX w)
  | .ldDtVx _ => .ldDtVx (wordX w)
  | .ldStVx _ => .ldStVx (wordX w)
  | .addI _ => .addI (wordX w)
  | .ldF _ => .ldF (wordX w)
  | .ldB _ => .ldB (wordX w)
  | .storeRegs _ => .storeRegs (wordX w)
  | .loadRegs _ => .loadRegs (wordX w)

end Sys2Proof

namespace Sys2Proof.Machine

variable {i : Instr} {w : Word} {op n : BitVec 4} {nn : Byte}

/-! ### Fields in numbers -/

theorem toNat_append_eq_add {m k : Nat} (a : BitVec m) (b : BitVec k) :
    (a ++ b).toNat = a.toNat * 2 ^ k + b.toNat := by
  rw [BitVec.toNat_append, ← Nat.shiftLeft_add_eq_or_of_lt b.isLt, Nat.shiftLeft_eq]

theorem toNat_ofAddr (op : BitVec 4) (nnn : BitVec 12) : (ofAddr op nnn).toNat = op.toNat * 4096 + nnn.toNat :=
  toNat_append_eq_add op nnn

theorem toNat_ofXByte (op : BitVec 4) (x : Reg) (nn : Byte) :
    (ofXByte op x nn).toNat = op.toNat * 4096 + x.val * 256 + nn.toNat := by
  simp only [ofXByte, regBits, toNat_append_eq_add, BitVec.toNat_ofFin]
  omega

theorem toNat_ofXY (op : BitVec 4) (x y : Reg) (n : BitVec 4) :
    (ofXY op x y n).toNat = op.toNat * 4096 + x.val * 256 + y.val * 16 + n.toNat := by
  simp only [ofXY, ofNibbles, regBits, toNat_append_eq_add, BitVec.toNat_ofFin]
  omega

theorem toNat_opField (w : Word) : (opField w).toNat = w.toNat / 4096 := by
  have hw := w.isLt
  simp only [opField, BitVec.extractLsb'_toNat, Nat.shiftRight_eq_div_pow]
  omega

theorem toNat_nField (w : Word) : (nField w).toNat = w.toNat % 16 := by
  simp [nField]

theorem toNat_nnField (w : Word) : (nnField w).toNat = w.toNat % 256 := by
  simp [nnField]

theorem val_wordX (w : Word) : (wordX w).val = w.toNat / 256 % 16 := rfl

theorem val_wordY (w : Word) : (wordY w).val = w.toNat / 16 % 16 := rfl

theorem toNat_wordNNN (w : Word) : (wordNNN w).toNat = w.toNat % 4096 := BitVec.toNat_ofNat _ _

theorem opField_eq_iff : opField w = op ↔ w.toNat / 4096 = op.toNat := by
  rw [← toNat_opField, BitVec.toNat_inj]

theorem nField_eq_iff : nField w = n ↔ w.toNat % 16 = n.toNat := by
  rw [← toNat_nField, BitVec.toNat_inj]

theorem nnField_eq_iff : nnField w = nn ↔ w.toNat % 256 = nn.toNat := by
  rw [← toNat_nnField, BitVec.toNat_inj]

/-! ### A format gives its fields back (R75) -/

@[simp] theorem opField_ofAddr (op : BitVec 4) (nnn : BitVec 12) : opField (ofAddr op nnn) = op :=
  BitVec.extractLsb'_append_eq_left

@[simp] theorem wordNNN_ofAddr (op : BitVec 4) (nnn : BitVec 12) : wordNNN (ofAddr op nnn) = nnn := by
  apply BitVec.eq_of_toNat_eq
  rw [toNat_wordNNN, toNat_ofAddr]
  omega

@[simp] theorem opField_ofXByte (op : BitVec 4) (x : Reg) (nn : Byte) : opField (ofXByte op x nn) = op := by
  rw [opField_eq_iff, toNat_ofXByte]
  omega

@[simp] theorem nnField_ofXByte (op : BitVec 4) (x : Reg) (nn : Byte) : nnField (ofXByte op x nn) = nn := by
  rw [nnField_eq_iff, toNat_ofXByte]
  omega

@[simp] theorem wordNN_ofXByte (op : BitVec 4) (x : Reg) (nn : Byte) : wordNN (ofXByte op x nn) = nn := by
  rw [← nnField_eq_wordNN, nnField_ofXByte]

@[simp] theorem wordX_ofXByte (op : BitVec 4) (x : Reg) (nn : Byte) : wordX (ofXByte op x nn) = x := by
  apply Fin.ext
  rw [val_wordX, toNat_ofXByte]
  omega

@[simp] theorem opField_ofXY (op : BitVec 4) (x y : Reg) (n : BitVec 4) : opField (ofXY op x y n) = op := by
  rw [opField_eq_iff, toNat_ofXY]
  omega

@[simp] theorem nField_ofXY (op : BitVec 4) (x y : Reg) (n : BitVec 4) : nField (ofXY op x y n) = n := by
  rw [nField_eq_iff, toNat_ofXY]
  omega

@[simp] theorem wordN_ofXY (op : BitVec 4) (x y : Reg) (n : BitVec 4) : wordN (ofXY op x y n) = n.toFin := by
  rw [← nField_eq_wordN, nField_ofXY]

@[simp] theorem wordX_ofXY (op : BitVec 4) (x y : Reg) (n : BitVec 4) : wordX (ofXY op x y n) = x := by
  apply Fin.ext
  rw [val_wordX, toNat_ofXY]
  omega

@[simp] theorem wordY_ofXY (op : BitVec 4) (x y : Reg) (n : BitVec 4) : wordY (ofXY op x y n) = y := by
  apply Fin.ext
  rw [val_wordY, toNat_ofXY]
  omega

/-! ### A word is made of its fields, in each format -/

theorem ofAddr_fields (hop : opField w = op) : ofAddr op (wordNNN w) = w := by
  apply BitVec.eq_of_toNat_eq
  rw [toNat_ofAddr, ← hop, toNat_opField, toNat_wordNNN]
  omega

theorem ofXByte_fields (hop : opField w = op) (hnn : nnField w = nn) : ofXByte op (wordX w) nn = w := by
  apply BitVec.eq_of_toNat_eq
  rw [toNat_ofXByte, ← hop, ← hnn, toNat_opField, toNat_nnField, val_wordX]
  omega

theorem ofXY_fields (hop : opField w = op) (hn : nField w = n) : ofXY op (wordX w) (wordY w) n = w := by
  apply BitVec.eq_of_toNat_eq
  rw [toNat_ofXY, ← hop, ← hn, toNat_opField, toNat_nField, val_wordX, val_wordY]
  omega

/-! ### What a mask keeps (R80) -/

theorem append_and_append_eq {m k : Nat} {a a' c : BitVec m} {b b' d : BitVec k} (ha : a &&& a' = c)
    (hb : b &&& b' = d) : (a ++ b) &&& (a' ++ b') = c ++ d := by
  rw [BitVec.and_append, ha, hb]

theorem and_opMask (hop : opField w = op) : w &&& 0xF000#16 = ofAddr op 0 := by
  conv_lhs => rw [← ofAddr_fields hop]
  exact append_and_append_eq BitVec.and_allOnes BitVec.and_zero

theorem and_opByteMask (hop : opField w = op) (hnn : nnField w = nn) : w &&& 0xF0FF#16 = ofXByte op 0 nn := by
  conv_lhs => rw [← ofXByte_fields hop hnn]
  exact append_and_append_eq (append_and_append_eq BitVec.and_allOnes BitVec.and_zero) BitVec.and_allOnes

theorem and_opNibbleMask (hop : opField w = op) (hn : nField w = n) : w &&& 0xF00F#16 = ofXY op 0 0 n := by
  conv_lhs => rw [← ofXY_fields hop hn]
  exact append_and_append_eq (append_and_append_eq (append_and_append_eq BitVec.and_allOnes BitVec.and_zero)
    BitVec.and_zero) BitVec.and_allOnes

theorem and_opRegsMask (hop : opField w = op) : w &&& 0xFFF0#16 = ofXY op (wordX w) (wordY w) 0 := by
  conv_lhs => rw [← ofXY_fields hop rfl]
  exact append_and_append_eq (append_and_append_eq (append_and_append_eq BitVec.and_allOnes BitVec.and_allOnes)
    BitVec.and_allOnes) BitVec.and_zero

/-- Clearing the don't-care bits of a row that has none (R81). -/
theorem and_not_and_not_self (w m : Word) : w &&& ~~~(m &&& ~~~m) = w := by
  rw [BitVec.and_not_self]
  exact BitVec.and_allOnes

/-- A word of `00E0` or `00EE` is canonical when its don't-care nibble `x` is 0 (R81). -/
theorem and_wholeMask_iff (hop : opField w = op) (hnn : nnField w = nn) :
    w &&& 0xFFFF#16 = ofXByte op 0 nn ↔ xField w = 0 := by
  have hw : w &&& 0xFFFF#16 = w := BitVec.and_allOnes
  rw [hw, xField_eq_wordX]
  constructor
  · intro h
    rw [h, wordX_ofXByte]
  · intro h
    rw [← h, ofXByte_fields hop hnn]

/-- A word of `5XY0` or `9XY0` is canonical when its don't-care nibble `n` is 0 (R81). -/
theorem and_opNibbleMask_iff (hop : opField w = op) : w &&& 0xF00F#16 = ofXY op 0 0 n ↔ nField w = n := by
  rw [and_opNibbleMask hop rfl]
  constructor
  · intro h
    simpa using congrArg nField h
  · intro h
    rw [h]

/-! ### A word that matches a row decodes to that row's instruction (R79 to R82) -/

theorem withDontCare_eq (p : AliasPolicy) (w : Word) (canonical : Bool) (i : Instr) :
    withDontCare p w canonical i = if canonical = true ∨ p = .execute then .ok i else .error (.aliasWord w) := by
  cases canonical <;> cases p <;> rfl

/-- The encoding bullet of a row without don't-care bits. -/
theorem wordsDecodeTo_of_ok {pattern mask : Word} {f : Word → Instr}
    (h : ∀ p w, w &&& mask = pattern → decodeWord p w = .ok (f w)) : WordsDecodeTo pattern mask mask f :=
  fun p w hm => (h p w hm).trans (if_pos (.inl hm)).symm

/-- The encoding bullet of a row with don't-care bits. -/
theorem wordsDecodeTo_of_withDontCare {pattern mask canon : Word} {f : Word → Instr} {canonical : Word → Bool}
    (h : ∀ p w, w &&& mask = pattern → decodeWord p w = withDontCare p w (canonical w) (f w))
    (hc : ∀ w, w &&& mask = pattern → (w &&& canon = pattern ↔ canonical w = true)) :
    WordsDecodeTo pattern mask canon f := by
  intro p w hm
  rw [h p w hm, withDontCare_eq]
  simp only [hc w hm]

/-- The encoding bullet of every row: the match fixes the fields the dispatch goes by. -/
theorem wordsDecodeTo_row (i : Instr) :
    WordsDecodeTo (rowOf i).pattern (rowOf i).mask (rowOf i).canon (fun w => i.withFieldsOf w) := by
  cases i <;> dsimp only [rowOf, Instr.withFieldsOf]
  case cls | ret =>
    refine wordsDecodeTo_of_withDontCare (canonical := fun w => xField w == 0) (fun p w h => ?_) (fun w h => ?_)
    · simp +decide [decodeWord, decodeOp0, opField_of_match h rfl, nnField_of_match h rfl]
    · rw [beq_iff_eq]
      exact and_wholeMask_iff (opField_of_match h rfl) (nnField_of_match h rfl)
  case seReg | sneReg =>
    refine wordsDecodeTo_of_withDontCare (canonical := fun w => nField w == 0) (fun p w h => ?_) (fun w h => ?_)
    · simp +decide [decodeWord, opField_of_match h rfl, xField_eq_wordX, yField_eq_wordY]
    · rw [beq_iff_eq]
      exact and_opNibbleMask_iff (n := 0) (opField_of_match h rfl)
  case jp | call | ldI | jpV0 | seImm | sneImm | ldImm | addImm | rnd | drw =>
    refine wordsDecodeTo_of_ok fun p w h => ?_
    simp +decide [decodeWord, opField_of_match h rfl, xField_eq_wordX, yField_eq_wordY, nField_eq_wordN,
      nnField_eq_wordNN, nnnField_eq_wordNNN]
  case ldReg | orReg | andReg | xorReg | addReg | subReg | shr | subn | shl =>
    refine wordsDecodeTo_of_ok fun p w h => ?_
    simp +decide [decodeWord, decodeOp8, opField_of_match h rfl, nField_of_match h rfl, xField_eq_wordX,
      yField_eq_wordY]
  case skp | sknp | ldVxDt | wkr | ldDtVx | ldStVx | addI | ldF | ldB | storeRegs | loadRegs =>
    refine wordsDecodeTo_of_ok fun p w h => ?_
    simp +decide [decodeWord, decodeOpE, decodeOpF, opField_of_match h rfl, nnField_of_match h rfl, xField_eq_wordX]

theorem decodeWord_of_match (p : AliasPolicy) (h : w &&& (rowOf i).mask = (rowOf i).pattern) :
    decodeWord p w = if w &&& (rowOf i).canon = (rowOf i).pattern ∨ p = .execute then .ok (i.withFieldsOf w)
      else .error (.aliasWord w) :=
  wordsDecodeTo_row i p w h

theorem decodeWord_execute_of_match (h : w &&& (rowOf i).mask = (rowOf i).pattern) :
    decodeWord .execute w = .ok (i.withFieldsOf w) :=
  (decodeWord_of_match .execute h).trans (if_pos (.inr rfl))

/-! ### Rows and encodings -/

theorem rowOf_withFieldsOf (i : Instr) (w : Word) : rowOf (i.withFieldsOf w) = rowOf i := by
  cases i <;> rfl

theorem withFieldsOf_withFieldsOf (i : Instr) (w : Word) :
    (i.withFieldsOf w).withFieldsOf w = i.withFieldsOf w := by
  cases i <;> rfl

theorem rowOf_mem_opcodeMap (i : Instr) : rowOf i ∈ opcodeMap := by
  cases i <;> simp [opcodeMap, rowOf]

theorem opcodeMap_masks : ∀ r ∈ opcodeMap, r.canon &&& r.mask = r.mask ∧ r.pattern &&& r.mask = r.pattern := by
  decide

/-- An encoding is canonical (R83). -/
theorem encode_and_canon (i : Instr) : encode i &&& (rowOf i).canon = (rowOf i).pattern := by
  cases i with
  | cls | ret => rfl
  | jp | call | ldI | jpV0 => exact (and_opMask (opField_ofAddr _ _)).trans rfl
  | seImm | sneImm | ldImm | addImm | rnd => exact (and_opMask (opField_ofXByte _ _ _)).trans rfl
  | drw => exact (and_opMask (opField_ofXY _ _ _ _)).trans rfl
  | seReg | sneReg | ldReg | orReg | andReg | xorReg | addReg | subReg | shr | subn | shl =>
    exact (and_opNibbleMask (opField_ofXY _ _ _ _) (nField_ofXY _ _ _ _)).trans rfl
  | skp | sknp | ldVxDt | wkr | ldDtVx | ldStVx | addI | ldF | ldB | storeRegs | loadRegs =>
    exact (and_opByteMask (opField_ofXByte _ _ _) (nnField_ofXByte _ _ _)).trans rfl

theorem encode_and_mask (i : Instr) : encode i &&& (rowOf i).mask = (rowOf i).pattern := by
  obtain ⟨hcanon, hpattern⟩ := opcodeMap_masks _ (rowOf_mem_opcodeMap i)
  rw [← hcanon, ← BitVec.and_assoc, encode_and_canon, hpattern]

/-- The fields of an encoding are the instruction's own (R75). -/
theorem withFieldsOf_encode (i : Instr) : i.withFieldsOf (encode i) = i := by
  cases i <;> simp [Instr.withFieldsOf, encode, regBits]

/-- A matching word's fields, encoded, are the word without the don't-care bits (R81, R83). -/
theorem encode_withFieldsOf (h : w &&& (rowOf i).mask = (rowOf i).pattern) :
    encode (i.withFieldsOf w) = w &&& ~~~((rowOf i).canon &&& ~~~(rowOf i).mask) := by
  cases i <;> dsimp only [rowOf] at h ⊢ <;> have hop := opField_of_match h rfl
  case cls | ret => exact (and_opByteMask hop (nnField_of_match h rfl)).symm
  case seReg | sneReg =>
    rw [show ~~~((0xF00F : Word) &&& ~~~0xF000) = 0xFFF0#16 by decide]
    exact (and_opRegsMask hop).symm
  case jp | call | ldI | jpV0 => exact (ofAddr_fields hop).trans (and_not_and_not_self w _).symm
  case seImm | sneImm | ldImm | addImm | rnd =>
    exact (ofXByte_fields hop (nnField_eq_wordNN w)).trans (and_not_and_not_self w _).symm
  case drw =>
    exact (ofXY_fields hop (congrArg BitVec.ofFin (nField_eq_wordN w))).trans (and_not_and_not_self w _).symm
  case ldReg | orReg | andReg | xorReg | addReg | subReg | shr | subn | shl =>
    exact (ofXY_fields hop (nField_of_match h rfl)).trans (and_not_and_not_self w _).symm
  case skp | sknp | ldVxDt | wkr | ldDtVx | ldStVx | addI | ldF | ldB | storeRegs | loadRegs =>
    exact (ofXByte_fields hop (nnField_of_match h rfl)).trans (and_not_and_not_self w _).symm

/-- Settles O1: an encoding is a canonical word of its row, and its fields are the instruction's. -/
theorem encodedInstructionDecodesToItself : Obligations.EncodedInstructionDecodesToItself := by
  intro p i
  rw [decodeWord_of_match p (encode_and_mask i), if_pos (.inl (encode_and_canon i)), withFieldsOf_encode]

/-! ### Every word matches a row or has an empty key (R78, R84) -/

/-- The secondary keys without a row (R84), by the fields the dispatch goes by. -/
def EmptyKey (w : Word) : Prop :=
  (opField w = 0x0#4 ∧ nnField w ∉ [0xE0#8, 0xEE#8]) ∨
  (opField w = 0x8#4 ∧ nField w ∉ [0x0#4, 0x1#4, 0x2#4, 0x3#4, 0x4#4, 0x5#4, 0x6#4, 0x7#4, 0xE#4]) ∨
  (opField w = 0xE#4 ∧ nnField w ∉ [0x9E#8, 0xA1#8]) ∨
  (opField w = 0xF#4 ∧ nnField w ∉ [0x07#8, 0x0A#8, 0x15#8, 0x18#8, 0x1E#8, 0x29#8, 0x33#8, 0x55#8, 0x65#8])

theorem decodeWord_of_emptyKey (p : AliasPolicy) (h : EmptyKey w) : decodeWord p w = .error (.invalidWord w) := by
  rcases h with ⟨hop, hk⟩ | ⟨hop, hk⟩ | ⟨hop, hk⟩ | ⟨hop, hk⟩ <;>
    simp only [List.mem_cons, List.not_mem_nil, or_false, not_or] at hk
  · simp [decodeWord, decodeOp0, hop, hk]
  · simp [decodeWord, decodeOp8, hop, hk]
  · simp [decodeWord, decodeOpE, hop, hk]
  · simp [decodeWord, decodeOpF, hop, hk]

theorem op0_match_of_key (hop : opField w = 0x0#4) (hk : nnField w ∈ [0xE0#8, 0xEE#8]) :
    ∃ i, w &&& (rowOf i).mask = (rowOf i).pattern := by
  simp only [List.mem_cons, List.not_mem_nil, or_false] at hk
  rcases hk with hk | hk
  · exact ⟨.cls, and_opByteMask hop hk⟩
  · exact ⟨.ret, and_opByteMask hop hk⟩

theorem op8_match_of_key (hop : opField w = 0x8#4)
    (hk : nField w ∈ [0x0#4, 0x1#4, 0x2#4, 0x3#4, 0x4#4, 0x5#4, 0x6#4, 0x7#4, 0xE#4]) :
    ∃ i, w &&& (rowOf i).mask = (rowOf i).pattern := by
  simp only [List.mem_cons, List.not_mem_nil, or_false] at hk
  rcases hk with hk | hk | hk | hk | hk | hk | hk | hk | hk
  · exact ⟨.ldReg 0 0, and_opNibbleMask hop hk⟩
  · exact ⟨.orReg 0 0, and_opNibbleMask hop hk⟩
  · exact ⟨.andReg 0 0, and_opNibbleMask hop hk⟩
  · exact ⟨.xorReg 0 0, and_opNibbleMask hop hk⟩
  · exact ⟨.addReg 0 0, and_opNibbleMask hop hk⟩
  · exact ⟨.subReg 0 0, and_opNibbleMask hop hk⟩
  · exact ⟨.shr 0 0, and_opNibbleMask hop hk⟩
  · exact ⟨.subn 0 0, and_opNibbleMask hop hk⟩
  · exact ⟨.shl 0 0, and_opNibbleMask hop hk⟩

theorem opE_match_of_key (hop : opField w = 0xE#4) (hk : nnField w ∈ [0x9E#8, 0xA1#8]) :
    ∃ i, w &&& (rowOf i).mask = (rowOf i).pattern := by
  simp only [List.mem_cons, List.not_mem_nil, or_false] at hk
  rcases hk with hk | hk
  · exact ⟨.skp 0, and_opByteMask hop hk⟩
  · exact ⟨.sknp 0, and_opByteMask hop hk⟩

theorem opF_match_of_key (hop : opField w = 0xF#4)
    (hk : nnField w ∈ [0x07#8, 0x0A#8, 0x15#8, 0x18#8, 0x1E#8, 0x29#8, 0x33#8, 0x55#8, 0x65#8]) :
    ∃ i, w &&& (rowOf i).mask = (rowOf i).pattern := by
  simp only [List.mem_cons, List.not_mem_nil, or_false] at hk
  rcases hk with hk | hk | hk | hk | hk | hk | hk | hk | hk
  · exact ⟨.ldVxDt 0, and_opByteMask hop hk⟩
  · exact ⟨.wkr 0, and_opByteMask hop hk⟩
  · exact ⟨.ldDtVx 0, and_opByteMask hop hk⟩
  · exact ⟨.ldStVx 0, and_opByteMask hop hk⟩
  · exact ⟨.addI 0, and_opByteMask hop hk⟩
  · exact ⟨.ldF 0, and_opByteMask hop hk⟩
  · exact ⟨.ldB 0, and_opByteMask hop hk⟩
  · exact ⟨.storeRegs 0, and_opByteMask hop hk⟩
  · exact ⟨.loadRegs 0, and_opByteMask hop hk⟩

theorem nibble_cases (a : BitVec 4) :
    a = 0x0#4 ∨ a = 0x1#4 ∨ a = 0x2#4 ∨ a = 0x3#4 ∨ a = 0x4#4 ∨ a = 0x5#4 ∨ a = 0x6#4 ∨ a = 0x7#4 ∨
    a = 0x8#4 ∨ a = 0x9#4 ∨ a = 0xA#4 ∨ a = 0xB#4 ∨ a = 0xC#4 ∨ a = 0xD#4 ∨ a = 0xE#4 ∨ a = 0xF#4 := by
  decide +revert

/-- The map is complete: the primary dispatch of R77, op by op. -/
theorem match_or_emptyKey (w : Word) : (∃ i, w &&& (rowOf i).mask = (rowOf i).pattern) ∨ EmptyKey w := by
  rcases nibble_cases (opField w) with h | h | h | h | h | h | h | h | h | h | h | h | h | h | h | h
  · exact (Decidable.em _).imp (op0_match_of_key h) fun hk => .inl ⟨h, hk⟩
  · exact .inl ⟨.jp 0, and_opMask h⟩
  · exact .inl ⟨.call 0, and_opMask h⟩
  · exact .inl ⟨.seImm 0 0, and_opMask h⟩
  · exact .inl ⟨.sneImm 0 0, and_opMask h⟩
  · exact .inl ⟨.seReg 0 0, and_opMask h⟩
  · exact .inl ⟨.ldImm 0 0, and_opMask h⟩
  · exact .inl ⟨.addImm 0 0, and_opMask h⟩
  · exact (Decidable.em _).imp (op8_match_of_key h) fun hk => .inr (.inl ⟨h, hk⟩)
  · exact .inl ⟨.sneReg 0 0, and_opMask h⟩
  · exact .inl ⟨.ldI 0, and_opMask h⟩
  · exact .inl ⟨.jpV0 0, and_opMask h⟩
  · exact .inl ⟨.rnd 0 0, and_opMask h⟩
  · exact .inl ⟨.drw 0 0 0, and_opMask h⟩
  · exact (Decidable.em _).imp (opE_match_of_key h) fun hk => .inr (.inr (.inl ⟨h, hk⟩))
  · exact (Decidable.em _).imp (opF_match_of_key h) fun hk => .inr (.inr (.inr ⟨h, hk⟩))

/-- A decoded word matches the row of its instruction, which has the word's fields. -/
theorem match_of_decodeWord (h : decodeWord .execute w = .ok i) :
    w &&& (rowOf i).mask = (rowOf i).pattern ∧ i.withFieldsOf w = i := by
  rcases match_or_emptyKey w with ⟨j, hj⟩ | he
  · rw [decodeWord_execute_of_match hj] at h
    cases h
    exact ⟨by rwa [rowOf_withFieldsOf], withFieldsOf_withFieldsOf j w⟩
  · rw [decodeWord_of_emptyKey _ he] at h
    cases h

/-- Settles O2, by the row the word matches. -/
theorem decodedWordReencodesUpToDontCareBits : Obligations.DecodedWordReencodesUpToDontCareBits := by
  intro w i h
  obtain ⟨hm, hi⟩ := match_of_decodeWord h
  exact ⟨hm, by rw [← encode_withFieldsOf hm, hi]⟩

/-- Settles O5, by the encoding bullet of the row the word matches. -/
theorem aliasWordsFollowThePolicy : Obligations.AliasWordsFollowThePolicy := by
  intro w i h
  obtain ⟨hm, hi⟩ := match_of_decodeWord h
  rw [decodeWord_of_match .invalid hm, hi]
  simp only [reduceCtorEq, or_false]

theorem decodeWord_invalid_iff (p : AliasPolicy) (w : Word) :
    decodeWord p w = .error (.invalidWord w) ↔ EmptyKey w := by
  constructor
  · intro h
    rcases match_or_emptyKey w with ⟨i, hi⟩ | he
    · rw [decodeWord_of_match p hi] at h
      split at h <;> cases h
    · exact he
  · exact decodeWord_of_emptyKey p

/-- The nibbles without a row under op 8, by complement (R84). -/
theorem op8_emptyKey_iff :
    nField w ∉ [0x0#4, 0x1#4, 0x2#4, 0x3#4, 0x4#4, 0x5#4, 0x6#4, 0x7#4, 0xE#4] ↔
      w.toNat % 16 ∈ [8, 9, 10, 11, 12, 13, 15] := by
  rw [← toNat_nField]
  generalize nField w = n
  decide +revert

/-- Settles O4: the table of R84 lists the empty keys, its fields in numbers. -/
theorem invalidWordsAreThoseOfTheTable : Obligations.InvalidWordsAreThoseOfTheTable := by
  intro p w
  rw [decodeWord_invalid_iff, EmptyKey, op8_emptyKey_iff]
  simp only [opField_eq_iff, nnField_eq_iff, BitVec.reduceToNat, List.mem_cons, List.not_mem_nil, or_false, not_or]

/-! ### The rows a word selects -/

/-- Two rows that select one word both decode it, so they are one row. -/
theorem selects_eq_of_decode {r : OpcodeRow} (h : decodeWord .execute w = .ok i) (hr : r ∈ opcodeMap) :
    r.selects w = (r == rowOf i) := by
  obtain ⟨j, -, rfl⟩ := List.mem_map.mp hr
  rw [Bool.eq_iff_iff, OpcodeRow.selects, beq_iff_eq, beq_iff_eq]
  constructor
  · intro hj
    rw [decodeWord_execute_of_match hj] at h
    cases h
    rw [rowOf_withFieldsOf]
  · intro hj
    obtain ⟨hm, -⟩ := match_of_decodeWord h
    rw [hj, hm]

theorem filter_selects_of_decode (h : decodeWord .execute w = .ok i) :
    opcodeMap.filter (fun r => r.selects w) = [rowOf i] := by
  have hnodup : opcodeMap.Nodup := by decide
  rw [List.filter_congr fun r hr => selects_eq_of_decode h hr, List.filter_beq,
    List.count_eq_one_of_mem hnodup (rowOf_mem_opcodeMap i)]
  rfl

theorem filter_selects_of_emptyKey (h : EmptyKey w) : opcodeMap.filter (fun r => r.selects w) = [] := by
  rw [List.filter_eq_nil_iff]
  intro r hr hs
  obtain ⟨j, -, rfl⟩ := List.mem_map.mp hr
  have hd := decodeWord_execute_of_match (beq_iff_eq.mp hs)
  rw [decodeWord_of_emptyKey _ h] at hd
  cases hd

/-- Settles O3: a word matches a row, and then that row only, or has an empty key. -/
theorem everyWordHasOneRowOrIsInvalid : Obligations.EveryWordHasOneRowOrIsInvalid := by
  intro w
  rcases match_or_emptyKey w with ⟨j, hj⟩ | he
  · have hd := decodeWord_execute_of_match hj
    exact .inl ⟨_, hd, filter_selects_of_decode hd⟩
  · exact .inr ⟨decodeWord_of_emptyKey _ he, filter_selects_of_emptyKey he⟩

/-- Settles O6, by evaluation of the decoder on eight words. -/
theorem specWordsDecode : Obligations.SpecWordsDecode := by
  unfold Obligations.SpecWordsDecode
  decide

/-! ### Fetch, decode and the step -/

/-- Settles O13, by the two cases of a fetch. -/
theorem fetchIsBigEndianAndChecked : Obligations.FetchIsBigEndianAndChecked := by
  intro s
  rcases s.fetch_cases with ⟨hlt, hf⟩ | ⟨hle, hf⟩
  · exact ⟨fun h => absurd hlt (Nat.not_lt.mpr h), fun _ => hf⟩
  · exact ⟨fun _ => ⟨_, hf, toNat_wordOfBytes _ _, State.fetched_pc_toNat hle, rfl⟩,
      fun h => absurd h (Nat.not_lt.mpr hle)⟩

theorem tickDown_eq_sub (t : Byte) : tickDown t = t - (if t = 0 then 0 else 1) := by
  unfold tickDown
  split
  · next h => rw [h]; rfl
  · rfl

/-- Settles O15: the error is taken in the state after the start of the cycle and the fetch. -/
theorem invalidWordFailsTheTick : Obligations.InvalidWordFailsTheTick := by
  intro s e hpc hd
  refine ⟨s.fetchedWord, toNat_wordOfBytes _ _, ?_⟩
  rw [step_of_decode_error hpc hd, State.beginCycle_eq, tickDown_eq_sub, tickDown_eq_sub]
  rfl

theorem decodeWord_of_decodeBytes {p : AliasPolicy} {hi lo : Byte} {rest : List Byte}
    (h : decodeBytes p [hi, lo] = .ok (i, rest)) : decodeWord p (wordOfBytes hi lo) = .ok i := by
  simp only [decodeBytes] at h
  split at h
  · next hd => cases h; exact hd
  · cases h

/-- Settles O12: the state after fetch, written out field by field. -/
theorem stepRunsTheDecodedInstruction : Obligations.StepRunsTheDecodedInstruction := by
  intro s u i hpc hd hx
  have hfetched : exec i s.beginCycle.fetched = .next u := by
    rw [State.beginCycle_eq]
    exact hx
  rw [step_of_decode_ok hpc (decodeWord_of_decodeBytes hd), hfetched]

end Sys2Proof.Machine

/-! ## Control transfer

The target of `BNNN` as a number, and a skip with its comparison as a proposition; with the encoding bullets of
`wordsDecodeTo_row` they give the jumps and the conditional skips of spec/40_control_flow.md. -/

namespace Sys2Proof.Machine

/-- The sum of `BNNN` stays below 65536, so that it does not wrap (R104). -/
theorem toNat_addrOperand_add_byteOperand (nnn : BitVec 12) (b : Byte) :
    (addrOperand nnn + byteOperand b).toNat = nnn.toNat + b.toNat := by
  have hsum : nnn.toNat + b.toNat < 2 ^ 16 := by omega
  rw [BitVec.toNat_add, toNat_addrOperand, toNat_byteOperand, Nat.mod_eq_of_lt hsum]

theorem State.skipIf_beq (s : State) (a b : Byte) :
    s.skipIf (a == b) = { s with pc := if a = b then s.pc + 2 else s.pc } := by
  simp only [State.skipIf_eq_setPc, State.setPc, beq_iff_eq]

theorem State.skipIf_bne (s : State) (a b : Byte) :
    s.skipIf (a != b) = { s with pc := if a = b then s.pc else s.pc + 2 } := by
  simp only [State.skipIf_eq_setPc, State.setPc, bne_iff_ne, ite_not]

/-- Settles O28: a jump's target is its operand, and the sum of `BNNN` does not wrap. -/
theorem jumpsSetPcUnmasked : Obligations.JumpsSetPcUnmasked :=
  ⟨wordsDecodeTo_row (.jp 0), wordsDecodeTo_row (.jpV0 0), fun nnn s =>
    ⟨⟨s.setPc (addrOperand nnn), rfl, toNat_addrOperand nnn, rfl⟩,
      s.setPc (addrOperand nnn + byteOperand (s.getV 0)), rfl, toNat_addrOperand_add_byteOperand nnn _, rfl⟩⟩

/-- Settles O32: each skip is a `skipIf` on the equality or the inequality of two bytes. -/
theorem skipsAddTwoWhenTheirConditionHolds : Obligations.SkipsAddTwoWhenTheirConditionHolds :=
  ⟨wordsDecodeTo_row (.seImm 0 0), wordsDecodeTo_row (.sneImm 0 0), wordsDecodeTo_row (.seReg 0 0),
    wordsDecodeTo_row (.sneReg 0 0), fun _ _ _ s =>
    ⟨congrArg _ (s.skipIf_beq _ _), congrArg _ (s.skipIf_bne _ _), congrArg _ (s.skipIf_beq _ _),
      congrArg _ (s.skipIf_bne _ _)⟩⟩

end Sys2Proof.Machine

/-! ## Load, ALU and random

SUPPORT. Every ALU operation is one `setVThenFlag` (spec/41_load_alu.md R121): what a register write leaves, seen
through a reading of bytes as numbers, and each result and flag as the number its rule gives. The frame of each
operation holds by definition, and the encodings are cases of `wordsDecodeTo_row`. -/

namespace Sys2Proof.Machine

/-! ### The registers in numbers -/

section Registers

variable {α : Type} (g : Byte → α) (s : State) (x r : Reg) (b f : Byte)

theorem State.apply_getV_setV : g ((s.setV x b).getV r) = if r = x then g b else g (s.getV r) := by
  rw [State.getV_setV, apply_ite g]

theorem State.apply_getV_setVThenFlag :
    g ((s.setVThenFlag x b f).getV r) = if r = vf then g f else if r = x then g b else g (s.getV r) := by
  rw [State.getV_setVThenFlag, apply_ite g, apply_ite g]

end Registers

/-! ### Results and flags in numbers (R122) -/

/-- The exact sum exceeds a byte (R129). -/
@[simp] theorem toNat_carryFlag (a b : Byte) :
    (carryFlag a b).toNat = if 255 < a.toNat + b.toNat then 1 else 0 := by
  simp only [carryFlag, toNat_flagOf, decide_eq_true_eq]

/-- The minuend is at least the subtrahend (R130, R132). -/
@[simp] theorem toNat_noBorrowFlag (a b : Byte) :
    (noBorrowFlag a b).toNat = if b.toNat ≤ a.toNat then 1 else 0 := by
  simp only [noBorrowFlag, toNat_flagOf, decide_eq_true_eq]

/-- The exact difference modulo 256, negative differences included (R122). -/
theorem intCast_toNat_subByte (a b : Byte) : ((subByte a b).toNat : Int) = ((a.toNat : Int) - b.toNat) % 256 := by
  rw [toNat_subByte]
  omega

/-- The registers after a subtraction, the result as the exact difference modulo 256 (R121, R130, R132). -/
theorem State.getV_subtract (s : State) (x r : Reg) (a b : Byte) :
    (((s.setVThenFlag x (subByte a b) (noBorrowFlag a b)).getV r).toNat : Int) =
      if r = 15 then (if b.toNat ≤ a.toNat then 1 else 0)
      else if r = x then ((a.toNat : Int) - b.toNat) % 256 else (s.getV r).toNat := by
  rw [s.apply_getV_setVThenFlag (fun c => (c.toNat : Int)), intCast_toNat_subByte, toNat_noBorrowFlag, Nat.cast_ite,
    Nat.cast_one, Nat.cast_zero]

/-- A bit as a flag is the digit of the byte at that place (R131, R133). -/
theorem toNat_flagOf_getLsbD (b : Byte) (k : Nat) : (flagOf (b.getLsbD k)).toNat = b.toNat / 2 ^ k % 2 := by
  rw [toNat_flagOf, BitVec.getLsbD, ← Nat.toNat_testBit]
  cases b.toNat.testBit k <;> rfl

@[simp] theorem toNat_shrFlag (b : Byte) : (shrFlag b).toNat = b.toNat % 2 := by
  rw [shrFlag, toNat_flagOf_getLsbD, Nat.pow_zero, Nat.div_one]

@[simp] theorem toNat_shlFlag (b : Byte) : (shlFlag b).toNat = b.toNat / 128 := by
  have hdigit : b.toNat / 128 < 2 := by omega
  rw [shlFlag, toNat_flagOf_getLsbD]
  exact Nat.mod_eq_of_lt hdigit

/-! ### The statements -/

/-- Settles O33: each of the three is one register write. -/
theorem loadsAndImmediateAddWriteVxOnly : Obligations.LoadsAndImmediateAddWriteVxOnly := by
  refine ⟨wordsDecodeTo_row (.ldImm 0 0), wordsDecodeTo_row (.addImm 0 0), wordsDecodeTo_row (.ldReg 0 0),
    fun x y nn s => ⟨⟨s.setV x nn, rfl, fun r => s.getV_setV x r nn, rfl⟩,
      ⟨s.setV x (addByte (s.getV x) nn), rfl, fun r => ?_, rfl⟩,
      s.setV x (s.getV y), rfl, fun r => s.getV_setV x r (s.getV y), rfl⟩⟩
  rw [s.apply_getV_setV BitVec.toNat, toNat_addByte]

/-- Settles O34: the flag written last is 0. -/
theorem bitwiseOperationsResetVf : Obligations.BitwiseOperationsResetVf :=
  ⟨wordsDecodeTo_row (.orReg 0 0), wordsDecodeTo_row (.andReg 0 0), wordsDecodeTo_row (.xorReg 0 0), fun x _ s =>
    ⟨⟨_, rfl, rfl, fun r => s.getV_setVThenFlag x r _ resetFlag⟩,
      ⟨_, rfl, rfl, fun r => s.getV_setVThenFlag x r _ resetFlag⟩,
      _, rfl, rfl, fun r => s.getV_setVThenFlag x r _ resetFlag⟩⟩

/-- Settles O35: the result is the sum modulo 256, the flag its carry. -/
theorem addWritesSumThenCarry : Obligations.AddWritesSumThenCarry := by
  refine ⟨wordsDecodeTo_row (.addReg 0 0), fun x y s => ⟨_, rfl, rfl, fun r => ?_⟩⟩
  rw [s.apply_getV_setVThenFlag BitVec.toNat, toNat_addByte, toNat_carryFlag]

/-- Settles O36: the two subtractions differ in which operand is the minuend. -/
theorem subtractionsWriteDifferenceThenNoBorrow : Obligations.SubtractionsWriteDifferenceThenNoBorrow :=
  ⟨wordsDecodeTo_row (.subReg 0 0), wordsDecodeTo_row (.subn 0 0), fun x y s =>
    ⟨⟨_, rfl, rfl, fun r => s.getV_subtract x r (s.getV x) (s.getV y)⟩,
      _, rfl, rfl, fun r => s.getV_subtract x r (s.getV y) (s.getV x)⟩⟩

/-- Settles O37: the results are V[y] halved and doubled, the flags its lowest and its highest digit. -/
theorem shiftsMoveVyIntoVx : Obligations.ShiftsMoveVyIntoVx := by
  refine ⟨wordsDecodeTo_row (.shr 0 0), wordsDecodeTo_row (.shl 0 0), fun x y s =>
    ⟨⟨_, rfl, rfl, fun r => ?_⟩, _, rfl, rfl, fun r => ?_⟩⟩
  · rw [s.apply_getV_setVThenFlag BitVec.toNat, toNat_shrByte, toNat_shrFlag]
  · rw [s.apply_getV_setVThenFlag BitVec.toNat, toNat_shlByte, toNat_shlFlag]

/-- Settles O38: the byte is the one drawn, and the registers are written after the draw. -/
theorem randomByteIsMasked : Obligations.RandomByteIsMasked := by
  refine ⟨wordsDecodeTo_row (.rnd 0 0), fun x nn s =>
    ⟨s.drawByte.2.setV x (s.drawByte.1 &&& nn), s.drawByte.1, rfl, fun r => ?_, ?_, rfl, rfl⟩⟩
  · exact s.drawByte.2.getV_setV x r _
  · rw [State.getV_setV, if_pos rfl, BitVec.and_assoc, BitVec.and_not_self]
    exact BitVec.and_zero

end Sys2Proof.Machine

/-! ## Index register and memory transfer

The three instructions that set I, and the two block transfers `FX55` and `FX65` on a range inside memory, each
with its frame (spec/42_index_memory.md R140 to R145); a store and a load in sequence need these two rules only
(R147). -/

namespace Sys2Proof.Machine

variable {s : State} {x : Reg}

/-! ### Setting I -/

/-- Settles O39: each of the three is one `setI`, and the sum of `FX1E` wraps at the width of I. -/
theorem indexInstructionsSetI : Obligations.IndexInstructionsSetI := by
  refine ⟨wordsDecodeTo_row (.ldI 0), wordsDecodeTo_row (.addI 0), wordsDecodeTo_row (.ldF 0), fun nnn x s =>
    ⟨⟨s.setI (addrOperand nnn), rfl, toNat_addrOperand nnn, rfl⟩,
      ⟨s.setI (s.i + byteOperand (s.getV x)), rfl, ?_, rfl⟩,
      s.setI (glyphAddr s.cfg (s.getV x)), rfl, toNat_glyphAddr s.cfg _, rfl⟩⟩
  rw [State.setI_i, BitVec.toNat_add, toNat_byteOperand]

/-! ### Block transfers -/

/-- I past a block that ends inside memory does not wrap. -/
theorem toNat_index_past_block (hfit : s.i.toNat + x.val ≤ 0xFFF) :
    (s.i + BitVec.ofNat 16 (x.val + 1)).toNat = s.i.toNat + x.val + 1 := by
  rw [BitVec.toNat_add, BitVec.toNat_ofNat]
  omega

/-- `FX55` on a block inside memory (R144). -/
theorem exec_storeRegs_of_fit (hfit : s.i.toNat + x.val ≤ 0xFFF) (w : Memory.wf s.cfg s.mem = true) :
    ∃ t, exec (.storeRegs x) s = .next t ∧
      (∀ k : Reg, k ≤ x → t.readByte (s.i.toNat + k.val) = s.getV k) ∧
      (∀ a, a < s.i.toNat ∨ s.i.toNat + x.val < a → t.readByte a = s.readByte a) ∧
      t.i.toNat = s.i.toNat + x.val + 1 ∧ t = { s with mem := t.mem, i := t.i } := by
  have hframe := s.writeBytes_frame (s.regsUpTo x) (s.atI 0)
  refine ⟨_, exec_storeRegs_of_range (s.rangeAtI_none (.inr (by omega))),
    fun k hk => State.readByte_writeBytes_regsUpTo w hfit hk,
    fun a ha => s.readByte_writeBytes_outside (s.regsUpTo x) _ a ?_, ?_, ?_⟩
  · rw [length_regsUpTo, State.atI]
    omega
  · rw [hframe]
    exact toNat_index_past_block hfit
  · rw [hframe]
    rfl

/-- `FX65` on a block inside memory (R145). -/
theorem exec_loadRegs_of_fit (hfit : s.i.toNat + x.val ≤ 0xFFF) :
    ∃ t, exec (.loadRegs x) s = .next t ∧
      (∀ k : Reg, t.getV k = if k ≤ x then s.readByte (s.i.toNat + k.val) else s.getV k) ∧
      t.i.toNat = s.i.toNat + x.val + 1 ∧ t = { s with v := t.v, i := t.i } :=
  ⟨_, exec_loadRegs_of_range (s.rangeAtI_none (.inr (by omega))), getElem_loadedRegs s x,
    toNat_index_past_block hfit, rfl⟩

/-- Settles O43: the load reads the block just stored, or, from where the store left I, the bytes after it, which
the store has not touched. -/
theorem storeThenLoadRestoresRegisters : Obligations.StoreThenLoadRestoresRegisters := by
  intro x s v' hfit w
  obtain ⟨t, ht, hblock, houtside, hti, -⟩ := exec_storeRegs_of_fit hfit w
  obtain ⟨u, hu, huv, hui, -⟩ := exec_loadRegs_of_fit (s := { t with i := s.i, v := v' }) hfit
  refine ⟨t, u, ht, hu, fun k hk => ?_, BitVec.eq_of_toNat_eq (hui.trans hti.symm), fun hfit' => ?_⟩
  · rw [huv k, if_pos hk]
    exact hblock k hk
  · obtain ⟨r, hr, hrv, -⟩ := exec_loadRegs_of_fit (s := t) (x := x) (by omega)
    refine ⟨r, hr, fun k hk => ?_⟩
    rw [hrv k, if_pos hk, hti]
    exact houtside _ (.inr (by omega))

end Sys2Proof.Machine

/-! ## The screen instructions and the gate

A screen instruction with the gate closed only moves `pc` back to its own word; the gate is closed on every
iteration but 0, so that such a cycle fetches and then undoes the advance (spec/43_display.md R160, R161, R164). -/

namespace Sys2Proof.Machine

variable {i : Instr} {s : State}

/-- With the gate closed, both screen instructions do nothing but retry (R160, D23). -/
theorem exec_screen_of_gated (hi : i = .cls ∨ ∃ x y n, i = .drw x y n) (h : s.vblank = false) :
    exec i s = .next s.retry := by
  rcases hi with rfl | ⟨x, y, n, rfl⟩
  · exact exec_cls_of_gated h
  · exact exec_drw_of_gated h

/-- After iteration 0 a cycle begins with the gate closed and no timer phase (R211, R212). -/
theorem State.beginCycle_of_iter_ne (h : s.iter ≠ 0) : s.beginCycle = { s with vblank := false, report := none } := by
  rw [State.beginCycle_eq, if_neg h, if_neg h, decide_eq_false h]

/-- A retry undoes the advance of the fetch before it and leaves the word in `ir` (R71, R160). -/
theorem State.fetched_retry (s : State) : s.fetched.retry = { s with ir := s.fetchedWord } := by
  rw [State.retry_eq_setPc, State.fetched, State.setPc, BitVec.add_sub_cancel]

/-- The end of a cycle in which no error was raised reports none, and changes KP and the place in the tick alone
(R210, R213). -/
theorem State.endCycle_of_no_report (h : s.report = none) :
    ∃ kp k r, s.endCycle = { s with keysPrev := kp, iter := k, report := r } ∧ ∀ e, r ≠ some (.failure e) := by
  rcases s.endCycle_cases with ⟨⟨r, hr⟩, -⟩ | ⟨-, -, he⟩ | ⟨-, -, he⟩
  · rw [h] at hr; cases hr
  · exact ⟨s.keysPrev, s.iter + 1, s.report, he, fun e hf => by rw [h] at hf; cases hf⟩
  · exact ⟨s.keys, 0, some .success, he, nofun⟩

/-- The cycle of a screen instruction after iteration 0: the word is fetched, and nothing else happens before the
end of the cycle. -/
theorem step_of_gated_screen (hpc : s.pc.toNat ≤ 0xFFE) (hk : s.iter ≠ 0)
    (hd : decodeWord s.cfg.aliasPolicy s.fetchedWord = .ok i) (hi : i = .cls ∨ ∃ x y n, i = .drw x y n) :
    step s = .next (State.endCycle { s with vblank := false, report := none, ir := s.fetchedWord }) := by
  have hbegin := State.beginCycle_of_iter_ne hk
  have hgate : s.beginCycle.fetched.vblank = false := by rw [hbegin]; rfl
  rw [step_of_decode_ok hpc hd, exec_screen_of_gated hi hgate, State.fetched_retry, hbegin]
  rfl

/-- Settles O45: with the gate closed the cycle comes down to its end, which neither fails nor touches what is
listed (D23: whatever I and n). -/
theorem gatedScreenInstructionsRetry : Obligations.GatedScreenInstructionsRetry := by
  intro s i hpc hk hd hi
  obtain ⟨kp, k, r, he, hr⟩ := State.endCycle_of_no_report
    (s := { s with vblank := false, report := none, ir := s.fetchedWord }) rfl
  refine ⟨_, step_of_gated_screen hpc hk hd hi, ?_⟩
  rw [he]
  exact ⟨rfl, rfl, rfl, rfl, rfl, rfl, rfl, rfl, rfl, rfl, rfl, rfl, hr⟩

/-- Settles O46, by the two cases of the gate: the blank screen or a retry. -/
theorem clearPutsEveryPixelOut : Obligations.ClearPutsEveryPixelOut :=
  ⟨wordsDecodeTo_row .cls, fun s =>
    ⟨fun hopen => ⟨s.setFb blankScreen, exec_cls_of_vblank hopen, Screen.lit_blank, rfl⟩, exec_cls_of_gated⟩⟩

end Sys2Proof.Machine

/-! ## The timer instructions

Each of the three is one write of one byte, to a register or to a timer, with its frame
(spec/44_keyboard_timers.md R174 to R176). -/

namespace Sys2Proof.Machine

/-- Settles O51: one register write and two timer writes, each of the byte read as it is (D24). -/
theorem timerInstructionsMoveTheirByte : Obligations.TimerInstructionsMoveTheirByte :=
  ⟨wordsDecodeTo_row (.ldVxDt 0), wordsDecodeTo_row (.ldDtVx 0), wordsDecodeTo_row (.ldStVx 0), fun x s =>
    ⟨⟨s.setV x s.dt, rfl, fun r => s.getV_setV x r s.dt, rfl⟩,
      ⟨s.setDt (s.getV x), rfl, s.setDt_dt (s.getV x), rfl⟩,
      s.setSt (s.getV x), rfl, s.setSt_st (s.getV x), rfl⟩⟩

end Sys2Proof.Machine

/-! ## The cycle in its tick

How an instruction cycle ends, and what it leaves of the gate bit, the timers and the keys (spec/60_exceptions.md
R202, R210 to R213). Fetch and execute either raise an error or leave the tick going; `step_ends` adds the cycle's
start and end, and the statements about a step are read off it. -/

namespace Sys2Proof.Machine

variable {s t : State}

/-! ### Fetch and execute -/

/-- Fetch and execute leave the keys, the snapshot and the gate bit (R26, R28). -/
theorem fetchExecute_keeps_unwritten (h : fetchExecute s = .next t) :
    t.keys = s.keys ∧ t.keysPrev = s.keysPrev ∧ t.vblank = s.vblank := by
  rcases fetchExecute_cases h with ⟨e, rfl⟩ | ⟨-, ⟨e, rfl⟩ | ⟨i, hx⟩⟩
  · exact ⟨rfl, rfl, rfl⟩
  · exact ⟨rfl, rfl, rfl⟩
  · obtain ⟨hk, hkp, hv, -, -⟩ := (exec_effect hx).keeps_unwritten
    exact ⟨hk, hkp, hv⟩

/-- Fetch and execute raise an error, which ends the tick, or leave the tick going as it was (R202). -/
theorem fetchExecute_raises_or_goes_on (h : fetchExecute s = .next t) :
    ((∃ e, t.report = some (.failure e)) ∧ t.iter = 0) ∨ (t.report = s.report ∧ t.iter = s.iter) := by
  rcases fetchExecute_cases h with ⟨e, rfl⟩ | ⟨-, ⟨e, rfl⟩ | ⟨i, hx⟩⟩
  · exact .inl ⟨⟨e, rfl⟩, rfl⟩
  · exact .inl ⟨⟨e, rfl⟩, rfl⟩
  · rcases (exec_effect hx).raises_or_goes_on with ⟨e, rfl⟩ | hon
    · exact .inl ⟨⟨e, rfl⟩, rfl⟩
    · exact .inr hon

/-- From its start to its end a cycle leaves the parameters. -/
theorem fetchExecute_beginCycle_cfg (h : fetchExecute s.beginCycle = .next t) : t.cfg = s.cfg := by
  obtain ⟨-, -, hcfg⟩ := s.beginCycle_reads
  exact (fetchExecute_cfg h).trans hcfg

/-! ### The step -/

theorem step_of_fetchExecute (h : fetchExecute s.beginCycle = .next t) : step s = .next t.endCycle := by
  simp only [step, runCycle, h]

/-- Settles O11, since fetch and execute always answer. -/
theorem everyStepAnswersANextState : Obligations.EveryStepAnswersANextState := by
  intro s
  obtain ⟨u, hu⟩ := fetchExecute_answers s.beginCycle
  exact ⟨u.endCycle, step_of_fetchExecute hu⟩

/-- The three ends of a step, `u` being what its cycle left: an error ended the tick, the next iteration is due, or
the tick succeeds with the snapshot (R202, R210, R213). -/
theorem step_ends (h : step s = .next t) :
    ∃ u, fetchExecute s.beginCycle = .next u ∧
      ((t = u ∧ (∃ e, u.report = some (.failure e)) ∧ u.iter = 0) ∨
        (t = { u with iter := s.iter + 1 } ∧ u.report = none ∧ s.iter + 1 < s.cfg.ipf.val) ∨
        (t = u.endTick ∧ u.report = none ∧ s.cfg.ipf.val ≤ s.iter + 1)) := by
  obtain ⟨u, hu, rfl⟩ := step_eq_endCycle h
  refine ⟨u, hu, ?_⟩
  rcases fetchExecute_raises_or_goes_on hu with ⟨⟨e, he⟩, hiter⟩ | ⟨hr, hiter⟩
  · exact .inl ⟨State.endCycle_of_report he, ⟨e, he⟩, hiter⟩
  · rw [State.beginCycle_eq] at hr hiter
    rw [← fetchExecute_beginCycle_cfg hu, ← hiter]
    rcases u.endCycle_cases with ⟨⟨r, hsome⟩, -⟩ | ⟨-, hlt, he⟩ | ⟨-, hle, he⟩
    · rw [hr] at hsome; cases hsome
    · exact .inr (.inl ⟨he, hr, hlt⟩)
    · exact .inr (.inr ⟨he, hr, hle⟩)

/-- Settles O18, by the three ends of a step. -/
theorem tickHasIpfIterationsOrFails : Obligations.TickHasIpfIterationsOrFails := by
  intro s t h
  obtain ⟨u, -, ⟨rfl, hfail⟩ | ⟨rfl, hr, hlt⟩ | ⟨rfl, -, hle⟩⟩ := step_ends h
  · exact .inl hfail
  · exact .inr (.inl ⟨hlt, hr, rfl⟩)
  · exact .inr (.inr ⟨hle, rfl, rfl⟩)

/-- Settles O19: the cycle's start sets the gate bit, and nothing after it in the cycle writes it. -/
theorem vblankIsIterationZero : Obligations.VblankIsIterationZero := by
  intro s t h
  obtain ⟨u, hu, hend⟩ := step_ends h
  have hgate : u.vblank = decide (s.iter = 0) := by
    obtain ⟨-, -, hv⟩ := fetchExecute_keeps_unwritten hu
    rw [hv, State.beginCycle_eq]
  have ht : t.vblank = u.vblank := by
    rcases hend with ⟨rfl, -⟩ | ⟨rfl, -⟩ | ⟨rfl, -⟩ <;> rfl
  rw [ht, hgate, decide_eq_true_iff]

/-- Settles O21: of the three ends of a step, only a tick's success takes the snapshot. -/
theorem snapshotIsTakenOnSuccessOnly : Obligations.SnapshotIsTakenOnSuccessOnly := by
  intro s t h
  obtain ⟨u, hu, hend⟩ := step_ends h
  obtain ⟨hk, hkp, -⟩ := fetchExecute_keeps_unwritten hu
  rw [State.beginCycle_eq] at hk hkp
  rcases hend with ⟨rfl, ⟨e, he⟩, -⟩ | ⟨rfl, hr, -⟩ | ⟨rfl, -⟩
  · rw [if_neg (by rw [he]; nofun)]
    exact ⟨hkp, hk⟩
  · rw [if_neg (by rw [hr]; nofun)]
    exact ⟨hkp, hk⟩
  · exact ⟨hk, hk⟩

/-- Settles O14: the error is taken in the state after the start of the cycle, before anything is fetched. -/
theorem fetchBeyondMemoryFailsTheTick : Obligations.FetchBeyondMemoryFailsTheTick := by
  intro s hpc
  rw [step_of_fetch_error hpc, State.beginCycle_eq, tickDown_eq_sub, tickDown_eq_sub]
  rfl

/-! ### The timers -/

/-- `FX15` alone writes DT (R25). -/
theorem delayTimer_not_written {i : Instr} (h : ∀ x, i ≠ .ldDtVx x) : Part.delayTimer ∉ partsWritten i := by
  cases i with
  | ldDtVx x => exact absurd rfl (h x)
  | _ => simp [partsWritten]

/-- `FX18` alone writes ST (R25). -/
theorem soundTimer_not_written {i : Instr} (h : ∀ x, i ≠ .ldStVx x) : Part.soundTimer ∉ partsWritten i := by
  cases i with
  | ldStVx x => exact absurd rfl (h x)
  | _ => simp [partsWritten]

theorem State.endCycle_timers (s : State) : s.endCycle.dt = s.dt ∧ s.endCycle.st = s.st := by
  rcases s.endCycle_cases with ⟨-, he⟩ | ⟨-, -, he⟩ | ⟨-, -, he⟩ <;> rw [he] <;> exact ⟨rfl, rfl⟩

/-- A step leaves each timer as the start of its cycle set it, unless the instruction is that timer's writer. -/
theorem step_timers (h : step s = .next t) :
    ((∀ x, decodeWord s.cfg.aliasPolicy s.fetchedWord ≠ .ok (.ldDtVx x)) → t.dt = s.beginCycle.dt) ∧
    ((∀ x, decodeWord s.cfg.aliasPolicy s.fetchedWord ≠ .ok (.ldStVx x)) → t.st = s.beginCycle.st) := by
  rcases step_cases h with ⟨-, rfl⟩ | ⟨-, e, -, rfl⟩ | ⟨-, i, u, hd, hx, rfl⟩
  · exact ⟨fun _ => rfl, fun _ => rfl⟩
  · exact ⟨fun _ => rfl, fun _ => rfl⟩
  · obtain ⟨hdt, hst⟩ := u.endCycle_timers
    have he := exec_effect hx
    rw [hdt, hst]
    exact ⟨fun hi => he.keeps_dt (delayTimer_not_written fun x hxi => hi x (by rw [hd, hxi])),
      fun hi => he.keeps_st (soundTimer_not_written fun x hxi => hi x (by rw [hd, hxi]))⟩

theorem State.toNat_beginCycle_timers (s : State) :
    s.beginCycle.dt.toNat = (if s.iter = 0 then s.dt.toNat - 1 else s.dt.toNat) ∧
      s.beginCycle.st.toNat = if s.iter = 0 then s.st.toNat - 1 else s.st.toNat := by
  rw [State.beginCycle_eq]
  split
  · exact ⟨toNat_tickDown s.dt, toNat_tickDown s.st⟩
  · exact ⟨rfl, rfl⟩

/-- Settles O20: the start of the cycle ticks the timers, and only their writers touch them after it. -/
theorem timersGoDownOncePerTick : Obligations.TimersGoDownOncePerTick := by
  intro s t h
  obtain ⟨hdt, hst⟩ := step_timers h
  obtain ⟨hdt', hst'⟩ := s.toNat_beginCycle_timers
  exact ⟨fun hi => by rw [hdt hi, hdt'], fun hi => by rw [hst hi, hst']⟩

end Sys2Proof.Machine

/-! ## The tick as its steps

`tickFrame` loops over fetch and execute with the gate bit set before each; a step does the same with its place in
the tick kept in the state. The two agree turn by turn (spec/60_exceptions.md R210, R227), so what a tick reports is
what its last step reports. -/

namespace Sys2Proof.Machine

variable {s t u : State} {k n : Nat} {r : TickResult}

/-! ### One turn of each loop -/

theorem runToReport_of_report (h : step s = .next t) (hr : t.report = some r) :
    runToReport (k + 1) s = .next t := by
  simp only [runToReport, h, hr]

theorem runToReport_of_no_report (h : step s = .next t) (hr : t.report = none) :
    runToReport (k + 1) s = runToReport k t := by
  simp only [runToReport, h, hr]

theorem tickLoop_of_report (h : fetchExecute { s with vblank := decide (n = 0), iter := n } = .next u)
    (hr : u.report = some r) : tickLoop (k + 1) n s = .next u := by
  simp only [tickLoop, h, hr]

theorem tickLoop_of_no_report (h : fetchExecute { s with vblank := decide (n = 0), iter := n } = .next u)
    (hr : u.report = none) : tickLoop (k + 1) n s = tickLoop k (n + 1) u := by
  simp only [tickLoop, h, hr]

/-! ### The two agree -/

/-- Stepping from iteration `n` of a tick is the tick's loop from there, when the step's cycle starts where the turn
of the loop does. After iteration 0 the loop's state is the stepped one but for `iter`. -/
theorem runToReport_eq_tickLoop (hb : s.beginCycle = { t with vblank := decide (n = 0), iter := n })
    (hn : n + (k + 1) = s.cfg.ipf.val) : runToReport (k + 1) s = tickLoop (k + 1) n t := by
  have hi : s.iter = n := by
    have hiter := congrArg State.iter hb
    rwa [State.beginCycle_eq] at hiter
  induction k generalizing n s t with
  | zero =>
    obtain ⟨v, hv⟩ := everyStepAnswersANextState s
    obtain ⟨u, hu, ⟨rfl, ⟨e, he⟩, -⟩ | ⟨-, -, hlt⟩ | ⟨rfl, hr, -⟩⟩ := step_ends hv
    · rw [runToReport_of_report hv he, tickLoop_of_report (hb ▸ hu) he]
    · omega
    · rw [runToReport_of_report hv rfl, tickLoop_of_no_report (hb ▸ hu) hr]
      rfl
  | succ k ih =>
    obtain ⟨v, hv⟩ := everyStepAnswersANextState s
    obtain ⟨u, hu, ⟨rfl, ⟨e, he⟩, -⟩ | ⟨rfl, hr, -⟩ | ⟨-, -, hle⟩⟩ := step_ends hv
    · rw [runToReport_of_report hv he, tickLoop_of_report (hb ▸ hu) he]
    · rw [runToReport_of_no_report hv hr, tickLoop_of_no_report (hb ▸ hu) hr]
      refine ih ?_ ?_ ?_
      · rw [State.beginCycle_of_iter_ne (Nat.succ_ne_zero _), hi, ← hr]
        simp
      · rw [fetchExecute_beginCycle_cfg hu]; omega
      · rw [hi]
    · omega

/-- Settles O23: from iteration 0 the start of the cycle is the timer phase, and both have IPF turns to go. -/
theorem tickFrameIsItsSteps : Obligations.TickFrameIsItsSteps := by
  intro s hi
  obtain ⟨k, hk⟩ := Nat.exists_eq_add_one.mpr s.cfg.ipf.2
  rw [tickFrame, hk]
  refine runToReport_eq_tickLoop ?_ (by omega)
  rw [State.beginCycle_eq, hi]
  rfl

/-! ### What a tick reports -/

/-- The tick's loop, begun with no report out, ends its tick in success or with an error (R202, R210). -/
theorem tickLoop_ends (hr : s.report = none) (h : tickLoop k n s = .next t) :
    t.iter = 0 ∧ (t.report = some .success ∨ ∃ e, t.report = some (.failure e)) := by
  induction k generalizing n s with
  | zero => cases h; exact ⟨rfl, .inl rfl⟩
  | succ k ih =>
    obtain ⟨u, hu, hend⟩ := tickLoop_succ_cases h
    rcases hend with ⟨rfl, r, hsome⟩ | ⟨hnone, hrest⟩
    · rcases fetchExecute_raises_or_goes_on hu with ⟨hfail, hiter⟩ | ⟨hon, -⟩
      · exact ⟨hiter, .inr hfail⟩
      · rw [hon.trans hr] at hsome; cases hsome
    · exact ih hnone hrest

theorem tickFrame_ends (h : tickFrame s = .next t) :
    t.iter = 0 ∧ (t.report = some .success ∨ ∃ e, t.report = some (.failure e)) :=
  tickLoop_ends (s := State.updateTimers { s with report := none }) rfl h

/-- Settles O55: the tick ends in the state stepping reaches, and the host is told the result reported there. -/
theorem tickFrameTellsSuccessOrFailure : Obligations.TickFrameTellsSuccessOrFailure := by
  intro s hi
  obtain ⟨t, ht⟩ := tickFrame_answers s
  obtain ⟨hiter, hreport⟩ := tickFrame_ends ht
  refine ⟨tickReply t, t, hostStep_tickFrame hi ht, (tickFrameIsItsSteps s hi).trans ht, hiter, ?_⟩
  rcases hreport with hs | ⟨e, he⟩
  · rw [tickReply_of_success hs, hs]
    exact ⟨.inl rfl, ⟨fun _ => rfl, fun _ => rfl⟩, nofun, nofun⟩
  · rw [tickReply_of_failure he, he]
    exact ⟨.inr rfl, ⟨nofun, nofun⟩, fun _ => ⟨e, rfl⟩, fun _ => rfl⟩

end Sys2Proof.Machine

/-! ## Keys, pixels and sound

The two host operations that check an argument, on either side of their bounds (spec/60_exceptions.md R222, R223). -/

namespace Sys2Proof.Machine

variable {s : State}

theorem keyOk_iff {key : Nat} : keyOk key = true ↔ key ≤ 15 :=
  decide_eq_true_iff.trans Nat.lt_succ_iff

theorem pixelOk_iff {x y : Int} : pixelOk x y = true ↔ (0 ≤ x ∧ x < 64) ∧ 0 ≤ y ∧ y < 32 := by
  simp [pixelOk, and_assoc]

/-- The one key of its number is set (R222). -/
theorem hostSetKeyState_of_le {key : Nat} (pressed : Bool) (h : key ≤ 15) :
    hostSetKeyState key pressed s = (.success, { s with keys := s.keys.setIfInBounds key pressed }) :=
  if_pos (keyOk_iff.mpr h)

theorem hostSetKeyState_of_gt {key : Nat} (pressed : Bool) (h : 15 < key) :
    hostSetKeyState key pressed s = (.failure, s) :=
  if_neg (mt keyOk_iff.mp (Nat.not_le.mpr h))

theorem getElem_setIfInBounds_keys (s : State) (key : Nat) (pressed : Bool) (k : Fin 16) :
    (s.keys.setIfInBounds key pressed)[k.val] = if k.val = key then pressed else s.keys[k.val] := by
  rw [Vector.getElem_setIfInBounds]
  simp only [eq_comm]

/-- A pixel on the screen is read (R223). -/
theorem hostGetPixel_of_bounds (xx : Fin 64) (yy : Fin 32) :
    hostGetPixel xx.val yy.val s = .pixel (s.fb[yy.val][xx.val]) := by
  have hok : pixelOk xx.val yy.val = true := pixelOk_iff.mpr (by omega)
  rw [hostGetPixel, if_pos hok, Int.toNat_natCast, Int.toNat_natCast, Screen.lit, dif_pos ⟨yy.isLt, xx.isLt⟩]

theorem hostGetPixel_of_outside {x y : Int} (h : x < 0 ∨ 63 < x ∨ y < 0 ∨ 31 < y) :
    hostGetPixel x y s = .failure := by
  rw [hostGetPixel, if_neg]
  rw [pixelOk_iff]
  omega

/-- Settles O53, an operation at a time. -/
theorem keyPixelAndSoundOperations : Obligations.KeyPixelAndSoundOperations := by
  intro s hi
  refine ⟨fun key pressed => ⟨fun hle => ?_, fun hgt => ?_⟩, fun xx yy => ?_, fun x y hout => ?_,
    hostStep_getScreenWidth hi, hostStep_getScreenHeight hi, hostShouldPlaySound s, hostStep_shouldPlaySound hi,
    decide_eq_true_iff⟩
  · refine ⟨{ s with keys := s.keys.setIfInBounds key pressed }, ?_, getElem_setIfInBounds_keys s key pressed, rfl⟩
    rw [hostStep_setKeyState key pressed hi, hostSetKeyState_of_le pressed hle]
  · rw [hostStep_setKeyState key pressed hi, hostSetKeyState_of_gt pressed hgt]
  · rw [hostStep_getPixel _ _ hi, hostGetPixel_of_bounds]
  · rw [hostStep_getPixel x y hi, hostGetPixel_of_outside hout]

end Sys2Proof.Machine

/-! ## Execution errors

The error table of spec/60_exceptions.md R200 read off the branches of the meanings; an error raised has no other
effect (R203) and sets the mark (R205). -/

namespace Sys2Proof.Machine

variable {i : Instr} {s t : State} {e : ExecError}

/-! ### What an error leaves -/

/-- Settles O16: an instruction that reports a failure took an error, and `raise` does nothing else (D14). -/
theorem errorsArePrecise : Obligations.ErrorsArePrecise := by
  intro i s t e hs hx hr
  rcases (exec_effect hx).raises_or_goes_on with ⟨e', rfl⟩ | ⟨hon, -⟩
  · rw [State.raise_report] at hr
    cases hr
    exact s.raise_eq_failedWith e
  · rw [hon, hs] at hr
    cases hr

/-- An instruction takes an error or leaves the mark (R205). -/
theorem Effect.raises_or_keeps_mark (h : Effect i s t) :
    (∃ e, t = s.raise e) ∨ (t.report = s.report ∧ t.errorSeen = s.errorSeen) := by
  cases h with
  | error e => exact .inl ⟨e, rfl⟩
  | _ => exact .inr (by simp)

/-- Settles O22: whatever raises the error sets the mark, and a cycle without error leaves it. -/
theorem errorMarkIsSticky : Obligations.ErrorMarkIsSticky := by
  intro s t h
  rcases step_cases h with ⟨-, rfl⟩ | ⟨-, e, -, rfl⟩ | ⟨-, i, u, -, hx, rfl⟩
  · exact iff_of_true rfl (.inr ⟨_, rfl⟩)
  · exact iff_of_true rfl (.inr ⟨_, rfl⟩)
  · rcases (exec_effect hx).raises_or_keeps_mark with ⟨e, rfl⟩ | ⟨hr, hm⟩
    · exact iff_of_true rfl (.inr ⟨e, rfl⟩)
    · rw [State.beginCycle_eq] at hr hm
      obtain ⟨kp, k, r, he, hne⟩ := State.endCycle_of_no_report hr
      rw [he]
      exact ⟨fun hu => .inl (hm.symm.trans hu), fun hu => hu.elim hm.trans fun ⟨e, hf⟩ => absurd hf (hne e)⟩

/-! ### Which errors are raised -/

/-- The range check fails as the table says (R200, D4). -/
theorem State.rangeAtI_eq_some {len : Nat} (h : s.rangeAtI len = some e) :
    0 < len ∧ e = .addressOutOfRange (max s.i.toNat 0x1000) ∧ 0xFFF < s.i.toNat + len - 1 := by
  obtain ⟨⟨hlen, hgt⟩, he⟩ := (rangeError_eq_some _ _ _).mp h
  exact ⟨hlen, he, by omega⟩

/-- V[x] names no key (R170, D8). -/
theorem lt_of_no_key {b : Byte} (h : keyOperand b = none) : 15 < b.toNat := by
  by_contra hle
  rw [keyOperand_of_eq (k := ⟨b.toNat, by omega⟩) rfl] at h
  cases h

/-- The error an instruction raises is the one its error branch names. -/
theorem raised_eq {e' : ExecError} (hx : exec i s = .next (s.raise e)) (h : exec i s = .next (s.raise e')) :
    e = e' := by
  rw [h] at hx
  cases hx
  rfl

/-- The error of a branch whose range check failed, and what that says of the range (R200, D4). -/
theorem raised_range {len : Nat} {e' : ExecError} (hx : exec i s = .next (s.raise e))
    (h : exec i s = .next (s.raise e')) (hk : s.rangeAtI len = some e') :
    e = .addressOutOfRange (max s.i.toNat 0x1000) ∧ 0xFFF < s.i.toNat + len - 1 := by
  obtain rfl := raised_eq hx h
  exact (State.rangeAtI_eq_some hk).2

/-- A branch that answers no new report raises no error. -/
theorem not_raised {p : Prop} (hs : s.report = none) (hx : exec i s = .next (s.raise e)) (h : exec i s = .next t)
    (ht : t.report = s.report) : p := by
  rw [hx] at h
  cases h
  rw [hs] at ht
  cases ht

theorem State.skipIf_report (c : Bool) : (s.skipIf c).report = s.report := by
  rw [State.skipIf_eq_setPc]; rfl

theorem State.writeBytes_report (a : Nat) (bs : List Byte) : (s.writeBytes a bs).report = s.report := by
  rw [State.writeBytes_frame]

/-- Settles O17, an instruction at a time: by O16 the answer is the state with the error taken, and only the error
branches of the meanings in the table answer one. -/
theorem onlyTheTabulatedErrorsAreRaised : Obligations.OnlyTheTabulatedErrorsAreRaised := by
  intro i s t e hs hx hr
  obtain rfl : t = s.raise e := errorsArePrecise i s t e hs hx hr
  cases i with
  | ret =>
    by_cases hsp : s.sp = 0
    · exact .inl ⟨rfl, raised_eq hx (exec_ret_of_empty hsp), hsp⟩
    · exact not_raised hs hx (exec_ret_of_ne hsp) rfl
  | call nnn =>
    by_cases hsp : s.sp = 15
    · exact .inr (.inl ⟨nnn, rfl, raised_eq hx (exec_call_of_full hsp), hsp⟩)
    · exact not_raised hs hx (exec_call_of_ne hsp) rfl
  | skp x =>
    cases hk : keyOperand (s.getV x) with
    | none => exact .inr (.inr (.inl ⟨x, .inl rfl, raised_eq hx (exec_skp_of_no_key hk), lt_of_no_key hk⟩))
    | some k => exact not_raised hs hx (exec_skp_of_key hk) (State.skipIf_report _)
  | sknp x =>
    cases hk : keyOperand (s.getV x) with
    | none => exact .inr (.inr (.inl ⟨x, .inr (.inl rfl), raised_eq hx (exec_sknp_of_no_key hk), lt_of_no_key hk⟩))
    | some k => exact not_raised hs hx (exec_sknp_of_key hk) (State.skipIf_report _)
  | wkr x =>
    cases hk : keyOperand (s.getV x) with
    | none => exact .inr (.inr (.inl ⟨x, .inr (.inr rfl), raised_eq hx (exec_wkr_of_no_key hk), lt_of_no_key hk⟩))
    | some k =>
      by_cases hp : (s.keysPrev[k.val] && !s.keys[k.val]) = true
      · exact not_raised hs hx (exec_wkr_of_release hk hp) rfl
      · exact not_raised hs hx (exec_wkr_of_wait hk hp) rfl
  | ldB x =>
    cases hk : s.rangeAtI 3 with
    | none => exact not_raised hs hx (exec_ldB_of_range hk) (State.writeBytes_report _ _)
    | some _ => exact .inr (.inr (.inr ⟨3, .inl ⟨x, rfl, rfl⟩, raised_range hx (exec_ldB_of_error hk) hk⟩))
  | storeRegs x =>
    cases hk : s.rangeAtI (x.val + 1) with
    | none => exact not_raised hs hx (exec_storeRegs_of_range hk) (State.writeBytes_report _ _)
    | some _ =>
      exact .inr (.inr (.inr ⟨_, .inr (.inl ⟨x, .inl rfl, rfl⟩), raised_range hx (exec_storeRegs_of_error hk) hk⟩))
  | loadRegs x =>
    cases hk : s.rangeAtI (x.val + 1) with
    | none => exact not_raised hs hx (exec_loadRegs_of_range hk) rfl
    | some _ =>
      exact .inr (.inr (.inr ⟨_, .inr (.inl ⟨x, .inr rfl, rfl⟩), raised_range hx (exec_loadRegs_of_error hk) hk⟩))
  | drw x y n =>
    rcases Bool.eq_false_or_eq_true s.vblank with hv | hv
    · cases hk : s.rangeAtI n.val with
      | none => exact not_raised hs hx (exec_drw_of_range hv hk) rfl
      | some _ =>
        have hlen := (State.rangeAtI_eq_some hk).1
        exact .inr (.inr (.inr ⟨_, .inr (.inr ⟨x, y, n, rfl, hv, hlen, rfl⟩),
          raised_range hx (exec_drw_of_error hv hk) hk⟩))
    · exact not_raised hs hx (exec_drw_of_gated hv) rfl
  | cls =>
    rcases Bool.eq_false_or_eq_true s.vblank with hv | hv
    · exact not_raised hs hx (exec_cls_of_vblank hv) rfl
    · exact not_raised hs hx (exec_cls_of_gated hv) rfl
  | seImm | sneImm | seReg | sneReg => exact not_raised hs hx rfl (State.skipIf_report _)
  | jp | jpV0 | ldImm | addImm | ldReg | orReg | andReg | xorReg | addReg | subReg | shr | subn | shl | rnd | ldI
  | addI | ldF | ldVxDt | ldDtVx | ldStVx => exact not_raised hs hx rfl rfl

end Sys2Proof.Machine

/-! ## Call and return

A push and a pop with their frames, on either side of the bounds of sp (spec/40_control_flow.md R101, R102); a pop
right after a push clears the slot the push filled. -/

namespace Sys2Proof.Machine

/-- Settles O29, by the two cases of sp (D6). -/
theorem callPushesOrOverflows : Obligations.CallPushesOrOverflows := by
  refine ⟨wordsDecodeTo_row (.call 0), fun nnn s => ⟨fun hsp => ?_, fun hsp => exec_call_of_full (Fin.ext hsp)⟩⟩
  have hval : (s.sp + 1).val = s.sp.val + 1 := by omega
  refine ⟨_, exec_call_of_ne (by omega), hval, fun k => ?_, toNat_addrOperand nnn, rfl⟩
  simp only [State.setPc_stack, State.push_slot, Fin.ext_iff, hval]

/-- Settles O30, by the two cases of sp (D7). -/
theorem returnPopsOrUnderflows : Obligations.ReturnPopsOrUnderflows := by
  refine ⟨wordsDecodeTo_row .ret, fun s => ⟨fun hsp => ?_, fun hsp => exec_ret_of_empty (Fin.ext hsp)⟩⟩
  have hval : (s.sp - 1).val + 1 = s.sp.val := by omega
  exact ⟨_, exec_ret_of_ne (by omega), rfl, hval, s.popPc_slot, rfl⟩

/-- Settles O31: the return pops what the call pushed, and clears a slot that was 0 before (R41). -/
theorem callThenReturnResumes : Obligations.CallThenReturnResumes := by
  intro nnn s w a ⟨hzero, _⟩ hsp
  have hclear : s.stack[(s.sp + 1).val] = 0 := hzero (s.sp + 1) (.inr (by omega))
  have hne : s.sp + 1 ≠ 0 := by omega
  refine ⟨_, _, exec_call_of_ne (by omega), exec_ret_of_ne hne, ?_, ?_, ?_⟩
  · simp
  · simp
  · simp [← hclear]

end Sys2Proof.Machine

/-! ## Transfers at the edge of memory

The bytes `FX33` and `load_program` leave at every address, and the error of each transfer whose range passes 0xFFF
(spec/42_index_memory.md R143 to R146, 60_exceptions.md R221). -/

namespace Sys2Proof.Machine

variable {s : State} {x : Reg}

/-- The digit bytes as numbers: each is below 256, so that nothing is lost (R143). -/
theorem toNat_decimalDigits (b : Byte) :
    ((decimalDigits b)[0]?.getD 0).toNat = b.toNat / 100 ∧ ((decimalDigits b)[1]?.getD 0).toNat = b.toNat / 10 % 10 ∧
      ((decimalDigits b)[2]?.getD 0).toNat = b.toNat % 10 := by
  have hb := b.isLt
  refine ⟨Nat.mod_eq_of_lt ?_, Nat.mod_eq_of_lt ?_, Nat.mod_eq_of_lt ?_⟩ <;> omega

/-- What `FX33` leaves at every address (R143). -/
theorem toNat_readByte_writeBytes_decimalDigits {b : Byte} (w : Memory.wf s.cfg s.mem = true)
    (hfit : s.i.toNat ≤ 0xFFD) (a : Nat) :
    ((s.writeBytes (s.atI 0) (decimalDigits b)).readByte a).toNat =
      if a = s.i.toNat then b.toNat / 100
      else if a = s.i.toNat + 1 then b.toNat / 10 % 10
      else if a = s.i.toNat + 2 then b.toNat % 10
      else (s.readByte a).toNat := by
  obtain ⟨h0, h1, h2⟩ := toNat_decimalDigits b
  split_ifs with e0 e1 e2
  · rw [e0, ← h0]
    exact congrArg _ (State.readByte_writeBytes_decimalDigits w hfit (k := 0) (by decide))
  · rw [e1, ← h1]
    exact congrArg _ (State.readByte_writeBytes_decimalDigits w hfit (k := 1) (by decide))
  · rw [e2, ← h2]
    exact congrArg _ (State.readByte_writeBytes_decimalDigits w hfit (k := 2) (by decide))
  · refine congrArg _ (s.readByte_writeBytes_outside _ _ _ fun hin => ?_)
    have hlen : (decimalDigits b).length = 3 := rfl
    rw [State.atI] at hin
    omega

/-- Settles O40, by the two cases of the range check (D4). -/
theorem decimalDigitsAreStored : Obligations.DecimalDigitsAreStored := by
  refine ⟨wordsDecodeTo_row (.ldB 0), fun x s => ⟨fun hfit w => ?_, fun hgt => ?_⟩⟩
  · exact ⟨_, exec_ldB_of_range (s.rangeAtI_none (.inr (by omega))), toNat_readByte_writeBytes_decimalDigits w hfit,
      s.writeBytes_frame _ _⟩
  · exact exec_ldB_of_error (s.rangeAtI_some (by decide) (by omega))

/-- Settles O41: a block inside memory is stored, any other fails the range check (D4). -/
theorem storeRegistersFillsMemory : Obligations.StoreRegistersFillsMemory :=
  ⟨wordsDecodeTo_row (.storeRegs 0), fun x s =>
    ⟨exec_storeRegs_of_fit, fun hgt => exec_storeRegs_of_error (s.rangeAtI_some (Nat.succ_pos x.val) hgt)⟩⟩

/-- Settles O42: a block inside memory is loaded, any other fails the range check (D4). -/
theorem loadRegistersReadsMemory : Obligations.LoadRegistersReadsMemory :=
  ⟨wordsDecodeTo_row (.loadRegs 0), fun x s =>
    ⟨exec_loadRegs_of_fit, fun hgt => exec_loadRegs_of_error (s.rangeAtI_some (Nat.succ_pos x.val) hgt)⟩⟩

/-- What `load_program` leaves at every address (R221). -/
theorem hostLoadProgram_readByte (image : List Byte) (w : Memory.wf s.cfg s.mem = true) (a : Nat) :
    (hostLoadProgram image s).2.readByte a =
      if 0x200 ≤ a ∧ a < 0x200 + min image.length 3584 then image[a - 0x200]?.getD 0 else s.readByte a := by
  have hlen : (image.take maxImage).length = min image.length 3584 := by rw [List.length_take, Nat.min_comm]
  have hfit : 0x200 + (image.take maxImage).length ≤ 0x1000 := by omega
  refine (State.readByte_writeBytes { s with fresh := s.fresh + 1 } (image.take maxImage) 0x200 a w hfit).trans ?_
  rw [hlen]
  split
  · next h => rw [List.getElem?_take_of_lt (show a - 0x200 < 3584 by omega)]
  · rfl

/-- Settles O52: the image is written as one run of bytes, whatever result is told (log 10). -/
theorem loadProgramCopiesTheImage : Obligations.LoadProgramCopiesTheImage := by
  intro image s hi w
  refine ⟨(hostLoadProgram image s).1, (hostLoadProgram image s).2, hostStep_loadProgram image hi,
    ite_eq_or_eq _ _ _, hostLoadProgram_readByte image w, ?_⟩
  rw [hostLoadProgram_frame]

end Sys2Proof.Machine

/-! ## Key instructions

The three instructions that read the key V[x] names, with the key in range and out of range
(spec/44_keyboard_timers.md R170 to R173). -/

namespace Sys2Proof.Machine

/-- Settles O49: each skip is on the key's state or its negation (D8 above 15). -/
theorem keySkipsReadTheCurrentKeys : Obligations.KeySkipsReadTheCurrentKeys := by
  refine ⟨wordsDecodeTo_row (.skp 0), wordsDecodeTo_row (.sknp 0), fun x s => ⟨fun k hk => ?_, fun hgt =>
    ⟨exec_skp_of_no_key (keyOperand_of_gt hgt), exec_sknp_of_no_key (keyOperand_of_gt hgt)⟩⟩⟩
  have hkey := keyOperand_of_eq hk
  rw [exec_skp_of_key hkey, exec_sknp_of_key hkey, State.skipIf_eq_setPc, State.skipIf_eq_setPc]
  cases s.keys[k.val] with
  | false => exact ⟨rfl, rfl⟩
  | true => exact ⟨rfl, rfl⟩

/-- Settles O50: the release edge, or a retry (D8 above 15). -/
theorem waitGoesOnAtTheReleaseEdge : Obligations.WaitGoesOnAtTheReleaseEdge := by
  refine ⟨wordsDecodeTo_row (.wkr 0), fun x s => ⟨fun k hk => ?_, fun hgt => exec_wkr_of_no_key (keyOperand_of_gt hgt)⟩⟩
  have hkey := keyOperand_of_eq hk
  refine ⟨fun hwas hnow => exec_wkr_of_release hkey ?_, fun hwait => exec_wkr_of_wait hkey ?_⟩
  · rw [hwas, hnow]; rfl
  · rcases hwait with h | h <;> simp [h]

end Sys2Proof.Machine

/-! ## The host between ticks

Every operation answers between ticks, a tick included, and none during one (spec/60_exceptions.md R228). -/

namespace Sys2Proof.Machine

/-- Settles O54, an operation at a time. -/
theorem hostOperationsRunBetweenTicksOnly : Obligations.HostOperationsRunBetweenTicksOnly := by
  refine fun op s => ⟨fun hi => ?_, hostStep_during op⟩
  cases op with
  | initializeOp n => exact ⟨_, _, hostStep_initialize n hi⟩
  | resetOp => exact ⟨_, _, hostStep_reset hi⟩
  | loadProgram image => exact ⟨_, _, hostStep_loadProgram image hi⟩
  | setKeyState key pressed => exact ⟨_, _, hostStep_setKeyState key pressed hi⟩
  | getPixel x y => exact ⟨_, _, hostStep_getPixel x y hi⟩
  | getScreenWidth => exact ⟨_, _, hostStep_getScreenWidth hi⟩
  | getScreenHeight => exact ⟨_, _, hostStep_getScreenHeight hi⟩
  | shouldPlaySound => exact ⟨_, _, hostStep_shouldPlaySound hi⟩
  | tickFrame =>
    obtain ⟨t, ht⟩ := tickFrame_answers s
    exact ⟨_, _, hostStep_tickFrame hi ht⟩

end Sys2Proof.Machine

/-! ## Drawing a sprite

`DXYN` is a fold over rows of folds over columns, each turn of which turns over one pixel or none. `Turns P a b` says
what all of these do: from the screen and the collision so far `a`, the pixels of `P` are turned over, and `b` notes
whether one of them was lit (spec/43_display.md R162, R163). Two turns over different pixels compose. -/

namespace Sys2Proof.Machine

/-- From `a` to `b` exactly the pixels of `P` are turned over, and a collision is noted iff one was lit (R163). -/
structure Turns (P : Nat → Nat → Bool) (a b : Screen × Bool) : Prop where
  lit : ∀ yy xx, yy < 32 → xx < 64 → b.1.lit yy xx = (a.1.lit yy xx ^^ P yy xx)
  collision : b.2 = true ↔ a.2 = true ∨ ∃ yy xx, yy < 32 ∧ xx < 64 ∧ a.1.lit yy xx = true ∧ P yy xx = true

variable {P Q : Nat → Nat → Bool} {a b c : Screen × Bool}

/-! ### The rules of turning over -/

/-- Only the pixels on the screen count. -/
theorem Turns.congr (h : Turns P a b) (hPQ : ∀ yy xx, yy < 32 → xx < 64 → P yy xx = Q yy xx) : Turns Q a b where
  lit yy xx hy hx := by rw [← hPQ yy xx hy hx]; exact h.lit yy xx hy hx
  collision := by
    rw [h.collision]
    refine or_congr Iff.rfl (exists₂_congr fun yy xx => and_congr_right fun hy => and_congr_right fun hx => ?_)
    rw [hPQ yy xx hy hx]

/-- Nothing is turned over. -/
theorem Turns.nothing (a : Screen × Bool) : Turns (fun _ _ => false) a a :=
  ⟨fun _ _ _ _ => (Bool.xor_false _).symm, by simp⟩

/-- Nothing is turned over when no pixel of `P` is on the screen. -/
theorem Turns.of_clipped (h : ∀ yy xx, yy < 32 → xx < 64 → P yy xx ≠ true) : Turns P a a :=
  (Turns.nothing a).congr fun yy xx hy hx => (Bool.eq_false_iff.mpr (h yy xx hy hx)).symm

/-- Turning over different pixels one after the other turns over both. -/
theorem Turns.trans (h : Turns P a b) (h' : Turns Q b c) (hdisj : ∀ yy xx, Q yy xx = true → P yy xx = false) :
    Turns (fun yy xx => P yy xx || Q yy xx) a c where
  lit yy xx hy hx := by
    rw [h'.lit yy xx hy hx, h.lit yy xx hy hx]
    cases hq : Q yy xx with
    | false => simp
    | true => simp [hdisj yy xx hq]
  collision := by
    have hsame yy xx (hy : yy < 32) (hx : xx < 64) (hq : Q yy xx = true) : b.1.lit yy xx = a.1.lit yy xx := by
      rw [h.lit yy xx hy hx, hdisj yy xx hq, Bool.xor_false]
    rw [h'.collision, h.collision]
    constructor
    · rintro ((ha | ⟨yy, xx, hy, hx, hl, hp⟩) | ⟨yy, xx, hy, hx, hl, hq⟩)
      · exact .inl ha
      · exact .inr ⟨yy, xx, hy, hx, hl, by rw [hp, Bool.true_or]⟩
      · exact .inr ⟨yy, xx, hy, hx, by rw [← hsame yy xx hy hx hq, hl], by rw [hq, Bool.or_true]⟩
    · rintro (ha | ⟨yy, xx, hy, hx, hl, hpq⟩)
      · exact .inl (.inl ha)
      · rcases Bool.or_eq_true_iff.mp hpq with hp | hq
        · exact .inl (.inr ⟨yy, xx, hy, hx, hl, hp⟩)
        · exact .inr ⟨yy, xx, hy, hx, by rw [hsame yy xx hy hx hq, hl], hq⟩

/-- A loop whose turns go over different pixels. -/
theorem Turns.foldl_range {f : Screen × Bool → Nat → Screen × Bool} {P : Nat → Nat → Nat → Bool}
    (hf : ∀ k a, Turns (P k) a (f a k)) (hdisj : ∀ j k yy xx, P j yy xx = true → P k yy xx = true → j = k)
    (n : Nat) (a : Screen × Bool) :
    Turns (fun yy xx => (List.range n).any fun k => P k yy xx) a ((List.range n).foldl f a) := by
  induction n with
  | zero => exact Turns.nothing a
  | succ n ih =>
    rw [List.range_succ, List.foldl_append]
    refine (ih.trans (hf n _) fun yy xx hn => List.any_eq_false.mpr fun k hk hp => ?_).congr fun yy xx _ _ => ?_
    · exact absurd (hdisj k n yy xx hp hn) (List.mem_range.mp hk).ne
    · simp

/-- The loop variable of a run of neighbouring lines is the distance from the first. -/
theorem any_range_eq_add (n v v0 : Nat) (p : Prop) [Decidable p] (g : Nat → Bool) :
    ((List.range n).any fun k => decide (v = v0 + k ∧ p) && g k) =
      (decide (v0 ≤ v ∧ v < v0 + n ∧ p) && g (v - v0)) := by
  rw [Bool.eq_iff_iff]
  simp only [List.any_eq_true, List.mem_range, Bool.and_eq_true, decide_eq_true_eq]
  constructor
  · rintro ⟨k, hk, ⟨rfl, hp⟩, hg⟩
    exact ⟨⟨by omega, by omega, hp⟩, by rwa [Nat.add_sub_cancel_left]⟩
  · rintro ⟨⟨hle, hlt, hp⟩, hg⟩
    exact ⟨v - v0, by omega, ⟨by omega, hp⟩, hg⟩

/-! ### Pixel, row and sprite -/

/-- One column of a sprite row: its pixel, unless it is clipped (R163). -/
theorem drawPixel_turns (x0 : Nat) {yy0 : Nat} (byte : Byte) (hy0 : yy0 < 32) (col : Nat) (a : Screen × Bool) :
    Turns (fun yy xx => decide (xx = x0 + col ∧ yy = yy0) && byte.getLsbD (7 - col)) a
      (drawPixel x0 yy0 byte a col) := by
  unfold drawPixel
  split
  · next h =>
    obtain ⟨hx0, hbit⟩ := h
    refine ⟨fun yy xx _ _ => ?_, Bool.or_eq_true_iff.trans (or_congr Iff.rfl ⟨fun hl => ?_, ?_⟩)⟩
    · rw [Screen.lit_put _ _ _ _ _ _ hy0 hx0, hbit, Bool.and_true]
      split
      · next hp => obtain ⟨rfl, rfl⟩ := hp; simp
      · next hp => simp [mt And.symm hp]
    · exact ⟨yy0, x0 + col, hy0, hx0, hl, by simp [hbit]⟩
    · rintro ⟨yy, xx, -, -, hl, hp⟩
      obtain ⟨⟨rfl, rfl⟩, -⟩ : (xx = x0 + col ∧ yy = yy0) ∧ _ := by simpa using hp
      exact hl
  · next h =>
    refine Turns.of_clipped fun yy xx _ hx hp => h ?_
    obtain ⟨⟨rfl, -⟩, hbit⟩ : (xx = x0 + col ∧ yy = yy0) ∧ _ := by simpa using hp
    exact ⟨hx, hbit⟩

/-- The eight columns of a sprite row, bit 7 its leftmost pixel (R162, D3). -/
theorem drawRow_turns (x0 : Nat) {yy0 : Nat} (byte : Byte) (hy0 : yy0 < 32) (a : Screen × Bool) :
    Turns (fun yy xx => decide (x0 ≤ xx ∧ xx < x0 + 8 ∧ yy = yy0) && byte.getLsbD (7 - (xx - x0))) a
      (drawRow x0 yy0 byte a) := by
  refine (Turns.foldl_range (drawPixel_turns x0 byte hy0) (fun j k yy xx hj hk => ?_) 8 a).congr fun yy xx _ _ =>
    any_range_eq_add 8 xx x0 (yy = yy0) fun k => byte.getLsbD (7 - k)
  simp only [Bool.and_eq_true, decide_eq_true_eq] at hj hk
  omega

/-- A sprite row, unless it is clipped (R163). -/
theorem State.drawSpriteRow_turns (s : State) (x0 y0 r : Nat) (a : Screen × Bool) :
    Turns (fun yy xx => decide (yy = y0 + r ∧ x0 ≤ xx ∧ xx < x0 + 8) &&
      (s.readByte (s.atI r)).getLsbD (7 - (xx - x0))) a (s.drawSpriteRow x0 y0 a r) := by
  unfold State.drawSpriteRow
  split
  · next h => exact (drawRow_turns x0 _ h a).congr fun yy xx _ _ =>
      congrArg (· && _) (decide_eq_decide.mpr and_rotate.symm)
  · next h =>
    refine Turns.of_clipped fun yy xx hy _ hp => h ?_
    obtain ⟨⟨rfl, -⟩, -⟩ : (yy = y0 + r ∧ _) ∧ _ := by simpa using hp
    exact hy

/-- The sprite of `n` rows (R162, R163). -/
theorem State.drawSprite_turns (s : State) (x0 y0 n : Nat) :
    Turns (s.spritePixel x0 y0 n) (s.fb, false) (s.drawSprite x0 y0 n) := by
  refine (Turns.foldl_range (s.drawSpriteRow_turns x0 y0) (fun j k yy xx hj hk => ?_) n _).congr fun yy xx _ _ =>
    any_range_eq_add n yy y0 (x0 ≤ xx ∧ xx < x0 + 8) fun k => (s.readByte (s.atI k)).getLsbD (7 - (xx - x0))
  simp only [Bool.and_eq_true, decide_eq_true_eq] at hj hk
  omega

/-! ### The instruction -/

variable {s : State} {x y : Reg} {n : Fin 16}

theorem flagOf_cases (c : Bool) : flagOf c = 0 ∨ flagOf c = 1 := by
  cases c with
  | false => exact .inl rfl
  | true => exact .inr rfl

theorem flagOf_eq_one_iff {c : Bool} : flagOf c = 1 ↔ c = true := by
  cases c <;> decide

/-- `DXYN` with the gate open and its rows in memory: the screen and VF are those of `drawSprite` (R163). -/
theorem exec_drw_of_fit (hv : s.vblank = true) (hfit : n.val = 0 ∨ s.i.toNat + n.val ≤ 0x1000) :
    ∃ t, exec (.drw x y n) s = .next t ∧
      (∀ yy xx, yy < 32 → xx < 64 → t.fb.lit yy xx =
        (s.fb.lit yy xx ^^ s.spritePixel ((s.getV x).toNat % 64) ((s.getV y).toNat % 32) n.val yy xx)) ∧
      (∀ r, r ≠ 15 → t.getV r = s.getV r) ∧
      (t.getV 15 = 0 ∨ t.getV 15 = 1) ∧
      (t.getV 15 = 1 ↔ ∃ yy xx, yy < 32 ∧ xx < 64 ∧ s.fb.lit yy xx = true ∧
        s.spritePixel ((s.getV x).toNat % 64) ((s.getV y).toNat % 32) n.val yy xx = true) ∧
      t = { s with fb := t.fb, v := t.v } := by
  obtain ⟨hlit, hcoll⟩ := s.drawSprite_turns ((s.getV x).toNat % 64) ((s.getV y).toNat % 32) n.val
  refine ⟨_, exec_drw_of_range hv (s.rangeAtI_none hfit), hlit, fun r hr => ?_, ?_, ?_, rfl⟩
  · exact (State.getV_setV _ vf r _).trans (if_neg hr)
  · rw [State.getV_setV, if_pos rfl]
    exact flagOf_cases _
  · rw [State.getV_setV, if_pos rfl, flagOf_eq_one_iff, hcoll]
    exact or_iff_right Bool.false_ne_true

/-- Settles O47: the gate, the range check (D4) and the sprite drawn, in the order of D23. -/
theorem drawTurnsOverTheSpritePixels : Obligations.DrawTurnsOverTheSpritePixels :=
  ⟨wordsDecodeTo_row (.drw 0 0 0), fun _ _ _ s =>
    ⟨exec_drw_of_fit, fun hv hn hgt => exec_drw_of_error hv (s.rangeAtI_some hn hgt), exec_drw_of_gated⟩⟩

/-- Settles O48: the second draw is of the same sprite at the same place, and turning over twice restores. -/
theorem drawingTwiceRestoresTheScreen : Obligations.DrawingTwiceRestoresTheScreen := by
  intro x y n s hv hx hy hfit
  obtain ⟨t, ht, hlit, hregs, -, -, hframe⟩ := exec_drw_of_fit (x := x) (y := y) hv hfit
  have hvt : t.vblank = true := by rw [hframe]; exact hv
  have hit : t.i = s.i := by rw [hframe]
  obtain ⟨u, hu, hlit', -⟩ := exec_drw_of_fit (x := x) (y := y) hvt (hit ▸ hfit)
  refine ⟨t, u, ht, hu, Screen.eq_of_lit _ _ fun yy xx hyy hxx => ?_⟩
  have hsprite : t.spritePixel = s.spritePixel := by rw [hframe]; rfl
  rw [hlit' yy xx hyy hxx, hlit yy xx hyy hxx, hsprite, hregs x hx, hregs y hy, Bool.xor_assoc, Bool.xor_self,
    Bool.xor_false]

end Sys2Proof.Machine
